-- ==== Sys2Proof/Word.lean ====
section
/-! DEFINITION. Sys2Proof/Word.lean: the two word types (00_scope.md R3): a byte (registers, memory cells) and a 16-bit
address (PC, every address). -/

namespace Sys2Proof

/-- A register value or a memory byte: unsigned, 0 to 255 (R3). -/
abbrev Byte := BitVec 8

/-- An address or a program-counter value: unsigned, 0 to 65535 (R3). -/
abbrev Addr := BitVec 16

end Sys2Proof
end

