-- ==== Sys2Proof/Syntax.lean ====
section
/-! DEFINITION. Sys2Proof/Syntax.lean: the syntax of the instruction set. The 56 mnemonics, the eleven mode tags
(30_encoding.md R74), the thirteen operand forms (R71), an operand with its bytes, the OpCode descriptor (R72), and
`Instr`: one constructor per row of spec/opcode_table.json (R92), its name the mnemonic followed by the operand form
(IMP and REL forms, and JSR, by the mnemonic alone). -/

namespace Sys2Proof

/-- The 56 mnemonics (R1, R92). -/
inductive Mnemonic where
  | adc | and | asl | bcc | bcs | beq | bit | bmi | bne | bpl | brk | bvc | bvs | clc
  | cld | cli | clv | cmp | cpx | cpy | dec | dex | dey | eor | inc | inx | iny | jmp
  | jsr | lda | ldx | ldy | lsr | nop | ora | pha | php | pla | plp | rol | ror | rti
  | rts | sbc | sec | sed | sei | sta | stx | sty | tax | tay | tsx | txa | txs | tya
deriving DecidableEq, Repr

/-- The source's eleven mode tags (R74). The first ten are resolvable, `noneAddressing` is not (R90). -/
inductive AddressingMode where
  | immediate | zeroPage | zeroPageX | zeroPageY | absolute | absoluteX | absoluteY
  | indirect | indirectX | indirectY | noneAddressing
deriving DecidableEq, Repr

/-- The thirteen operand forms (R71). -/
inductive OperandForm where
  | imp | acc | imm | zp | zpx | zpy | abs | abx | aby | ind | inx | iny | rel
deriving DecidableEq, Repr

/-- The `len` column of R71: the bytes of an instruction of this form. -/
def OperandForm.len : OperandForm → Nat
  | .imp | .acc => 1
  | .imm | .zp | .zpx | .zpy | .inx | .iny | .rel => 2
  | .abs | .abx | .aby | .ind => 3

/-- The "source mode tag" column of R71. IMP, ACC and REL share `NoneAddressing` (decision D4). -/
def OperandForm.tag : OperandForm → AddressingMode
  | .imp | .acc | .rel => .noneAddressing
  | .imm => .immediate
  | .zp => .zeroPage
  | .zpx => .zeroPageX
  | .zpy => .zeroPageY
  | .abs => .absolute
  | .abx => .absoluteX
  | .aby => .absoluteY
  | .ind => .indirect
  | .inx => .indirectX
  | .iny => .indirectY

/-- An operand: its form and the operand bytes of the instruction (R70, R71). -/
inductive Operand where
  | imp
  | acc
  | imm (v : Byte)
  | zp (zp : Byte)
  | zpx (zp : Byte)
  | zpy (zp : Byte)
  | abs (addr : Addr)
  | abx (addr : Addr)
  | aby (addr : Addr)
  | ind (addr : Addr)
  | inx (zp : Byte)
  | iny (zp : Byte)
  | rel (rel : Byte)
deriving DecidableEq, Repr

/-- The form of an operand (R71). -/
def Operand.form : Operand → OperandForm
  | .imp => .imp
  | .acc => .acc
  | .imm _ => .imm
  | .zp _ => .zp
  | .zpx _ => .zpx
  | .zpy _ => .zpy
  | .abs _ => .abs
  | .abx _ => .abx
  | .aby _ => .aby
  | .ind _ => .ind
  | .inx _ => .inx
  | .iny _ => .iny
  | .rel _ => .rel

/-- The length in bytes of an instruction with this operand (R71). -/
def Operand.len (o : Operand) : Nat := o.form.len

/-- The OpCode descriptor, the decoder's output for one opcode byte (R72), with the spec's operand form beside the
source's mode tag. No rule reads `cycles` (R98). -/
structure Descriptor where
  code : Byte
  mnemonic : Mnemonic
  form : OperandForm
  len : Nat
  cycles : Nat
  mode : AddressingMode
deriving DecidableEq, Repr

/-- The 151 instructions, one per defined opcode (R92), each with its operand (R70, R71). -/
inductive Instr where
  | adcImm (v : Byte)
  | adcZp (zp : Byte)
  | adcZpx (zp : Byte)
  | adcAbs (addr : Addr)
  | adcAbx (addr : Addr)
  | adcAby (addr : Addr)
  | adcInx (zp : Byte)
  | adcIny (zp : Byte)
  | andImm (v : Byte)
  | andZp (zp : Byte)
  | andZpx (zp : Byte)
  | andAbs (addr : Addr)
  | andAbx (addr : Addr)
  | andAby (addr : Addr)
  | andInx (zp : Byte)
  | andIny (zp : Byte)
  | aslAcc
  | aslZp (zp : Byte)
  | aslZpx (zp : Byte)
  | aslAbs (addr : Addr)
  | aslAbx (addr : Addr)
  | bcc (rel : Byte)
  | bcs (rel : Byte)
  | beq (rel : Byte)
  | bitZp (zp : Byte)
  | bitAbs (addr : Addr)
  | bmi (rel : Byte)
  | bne (rel : Byte)
  | bpl (rel : Byte)
  | brk
  | bvc (rel : Byte)
  | bvs (rel : Byte)
  | clc
  | cld
  | cli
  | clv
  | cmpImm (v : Byte)
  | cmpZp (zp : Byte)
  | cmpZpx (zp : Byte)
  | cmpAbs (addr : Addr)
  | cmpAbx (addr : Addr)
  | cmpAby (addr : Addr)
  | cmpInx (zp : Byte)
  | cmpIny (zp : Byte)
  | cpxImm (v : Byte)
  | cpxZp (zp : Byte)
  | cpxAbs (addr : Addr)
  | cpyImm (v : Byte)
  | cpyZp (zp : Byte)
  | cpyAbs (addr : Addr)
  | decZp (zp : Byte)
  | decZpx (zp : Byte)
  | decAbs (addr : Addr)
  | decAbx (addr : Addr)
  | dex
  | dey
  | eorImm (v : Byte)
  | eorZp (zp : Byte)
  | eorZpx (zp : Byte)
  | eorAbs (addr : Addr)
  | eorAbx (addr : Addr)
  | eorAby (addr : Addr)
  | eorInx (zp : Byte)
  | eorIny (zp : Byte)
  | incZp (zp : Byte)
  | incZpx (zp : Byte)
  | incAbs (addr : Addr)
  | incAbx (addr : Addr)
  | inx
  | iny
  | jmpAbs (addr : Addr)
  | jmpInd (addr : Addr)
  | jsr (addr : Addr)
  | ldaImm (v : Byte)
  | ldaZp (zp : Byte)
  | ldaZpx (zp : Byte)
  | ldaAbs (addr : Addr)
  | ldaAbx (addr : Addr)
  | ldaAby (addr : Addr)
  | ldaInx (zp : Byte)
  | ldaIny (zp : Byte)
  | ldxImm (v : Byte)
  | ldxZp (zp : Byte)
  | ldxZpy (zp : Byte)
  | ldxAbs (addr : Addr)
  | ldxAby (addr : Addr)
  | ldyImm (v : Byte)
  | ldyZp (zp : Byte)
  | ldyZpx (zp : Byte)
  | ldyAbs (addr : Addr)
  | ldyAbx (addr : Addr)
  | lsrAcc
  | lsrZp (zp : Byte)
  | lsrZpx (zp : Byte)
  | lsrAbs (addr : Addr)
  | lsrAbx (addr : Addr)
  | nop
  | oraImm (v : Byte)
  | oraZp (zp : Byte)
  | oraZpx (zp : Byte)
  | oraAbs (addr : Addr)
  | oraAbx (addr : Addr)
  | oraAby (addr : Addr)
  | oraInx (zp : Byte)
  | oraIny (zp : Byte)
  | pha
  | php
  | pla
  | plp
  | rolAcc
  | rolZp (zp : Byte)
  | rolZpx (zp : Byte)
  | rolAbs (addr : Addr)
  | rolAbx (addr : Addr)
  | rorAcc
  | rorZp (zp : Byte)
  | rorZpx (zp : Byte)
  | rorAbs (addr : Addr)
  | rorAbx (addr : Addr)
  | rti
  | rts
  | sbcImm (v : Byte)
  | sbcZp (zp : Byte)
  | sbcZpx (zp : Byte)
  | sbcAbs (addr : Addr)
  | sbcAbx (addr : Addr)
  | sbcAby (addr : Addr)
  | sbcInx (zp : Byte)
  | sbcIny (zp : Byte)
  | sec
  | sed
  | sei
  | staZp (zp : Byte)
  | staZpx (zp : Byte)
  | staAbs (addr : Addr)
  | staAbx (addr : Addr)
  | staAby (addr : Addr)
  | staInx (zp : Byte)
  | staIny (zp : Byte)
  | stxZp (zp : Byte)
  | stxZpy (zp : Byte)
  | stxAbs (addr : Addr)
  | styZp (zp : Byte)
  | styZpx (zp : Byte)
  | styAbs (addr : Addr)
  | tax
  | tay
  | tsx
  | txa
  | txs
  | tya
deriving DecidableEq, Repr

/-- The mnemonic of an instruction (R92). -/
def Instr.mnemonic : Instr → Mnemonic
  | .adcImm _ | .adcZp _ | .adcZpx _ | .adcAbs _ | .adcAbx _ | .adcAby _ | .adcInx _ | .adcIny _ => .adc
  | .andImm _ | .andZp _ | .andZpx _ | .andAbs _ | .andAbx _ | .andAby _ | .andInx _ | .andIny _ => .and
  | .aslAcc | .aslZp _ | .aslZpx _ | .aslAbs _ | .aslAbx _ => .asl
  | .bcc _ => .bcc
  | .bcs _ => .bcs
  | .beq _ => .beq
  | .bitZp _ | .bitAbs _ => .bit
  | .bmi _ => .bmi
  | .bne _ => .bne
  | .bpl _ => .bpl
  | .brk => .brk
  | .bvc _ => .bvc
  | .bvs _ => .bvs
  | .clc => .clc
  | .cld => .cld
  | .cli => .cli
  | .clv => .clv
  | .cmpImm _ | .cmpZp _ | .cmpZpx _ | .cmpAbs _ | .cmpAbx _ | .cmpAby _ | .cmpInx _ | .cmpIny _ => .cmp
  | .cpxImm _ | .cpxZp _ | .cpxAbs _ => .cpx
  | .cpyImm _ | .cpyZp _ | .cpyAbs _ => .cpy
  | .decZp _ | .decZpx _ | .decAbs _ | .decAbx _ => .dec
  | .dex => .dex
  | .dey => .dey
  | .eorImm _ | .eorZp _ | .eorZpx _ | .eorAbs _ | .eorAbx _ | .eorAby _ | .eorInx _ | .eorIny _ => .eor
  | .incZp _ | .incZpx _ | .incAbs _ | .incAbx _ => .inc
  | .inx => .inx
  | .iny => .iny
  | .jmpAbs _ | .jmpInd _ => .jmp
  | .jsr _ => .jsr
  | .ldaImm _ | .ldaZp _ | .ldaZpx _ | .ldaAbs _ | .ldaAbx _ | .ldaAby _ | .ldaInx _ | .ldaIny _ => .lda
  | .ldxImm _ | .ldxZp _ | .ldxZpy _ | .ldxAbs _ | .ldxAby _ => .ldx
  | .ldyImm _ | .ldyZp _ | .ldyZpx _ | .ldyAbs _ | .ldyAbx _ => .ldy
  | .lsrAcc | .lsrZp _ | .lsrZpx _ | .lsrAbs _ | .lsrAbx _ => .lsr
  | .nop => .nop
  | .oraImm _ | .oraZp _ | .oraZpx _ | .oraAbs _ | .oraAbx _ | .oraAby _ | .oraInx _ | .oraIny _ => .ora
  | .pha => .pha
  | .php => .php
  | .pla => .pla
  | .plp => .plp
  | .rolAcc | .rolZp _ | .rolZpx _ | .rolAbs _ | .rolAbx _ => .rol
  | .rorAcc | .rorZp _ | .rorZpx _ | .rorAbs _ | .rorAbx _ => .ror
  | .rti => .rti
  | .rts => .rts
  | .sbcImm _ | .sbcZp _ | .sbcZpx _ | .sbcAbs _ | .sbcAbx _ | .sbcAby _ | .sbcInx _ | .sbcIny _ => .sbc
  | .sec => .sec
  | .sed => .sed
  | .sei => .sei
  | .staZp _ | .staZpx _ | .staAbs _ | .staAbx _ | .staAby _ | .staInx _ | .staIny _ => .sta
  | .stxZp _ | .stxZpy _ | .stxAbs _ => .stx
  | .styZp _ | .styZpx _ | .styAbs _ => .sty
  | .tax => .tax
  | .tay => .tay
  | .tsx => .tsx
  | .txa => .txa
  | .txs => .txs
  | .tya => .tya

/-- The operand of an instruction (R71, R92). -/
def Instr.operand : Instr → Operand
  | .adcImm v => .imm v
  | .adcZp zp => .zp zp
  | .adcZpx zp => .zpx zp
  | .adcAbs addr => .abs addr
  | .adcAbx addr => .abx addr
  | .adcAby addr => .aby addr
  | .adcInx zp => .inx zp
  | .adcIny zp => .iny zp
  | .andImm v => .imm v
  | .andZp zp => .zp zp
  | .andZpx zp => .zpx zp
  | .andAbs addr => .abs addr
  | .andAbx addr => .abx addr
  | .andAby addr => .aby addr
  | .andInx zp => .inx zp
  | .andIny zp => .iny zp
  | .aslAcc => .acc
  | .aslZp zp => .zp zp
  | .aslZpx zp => .zpx zp
  | .aslAbs addr => .abs addr
  | .aslAbx addr => .abx addr
  | .bcc rel => .rel rel
  | .bcs rel => .rel rel
  | .beq rel => .rel rel
  | .bitZp zp => .zp zp
  | .bitAbs addr => .abs addr
  | .bmi rel => .rel rel
  | .bne rel => .rel rel
  | .bpl rel => .rel rel
  | .brk => .imp
  | .bvc rel => .rel rel
  | .bvs rel => .rel rel
  | .clc => .imp
  | .cld => .imp
  | .cli => .imp
  | .clv => .imp
  | .cmpImm v => .imm v
  | .cmpZp zp => .zp zp
  | .cmpZpx zp => .zpx zp
  | .cmpAbs addr => .abs addr
  | .cmpAbx addr => .abx addr
  | .cmpAby addr => .aby addr
  | .cmpInx zp => .inx zp
  | .cmpIny zp => .iny zp
  | .cpxImm v => .imm v
  | .cpxZp zp => .zp zp
  | .cpxAbs addr => .abs addr
  | .cpyImm v => .imm v
  | .cpyZp zp => .zp zp
  | .cpyAbs addr => .abs addr
  | .decZp zp => .zp zp
  | .decZpx zp => .zpx zp
  | .decAbs addr => .abs addr
  | .decAbx addr => .abx addr
  | .dex => .imp
  | .dey => .imp
  | .eorImm v => .imm v
  | .eorZp zp => .zp zp
  | .eorZpx zp => .zpx zp
  | .eorAbs addr => .abs addr
  | .eorAbx addr => .abx addr
  | .eorAby addr => .aby addr
  | .eorInx zp => .inx zp
  | .eorIny zp => .iny zp
  | .incZp zp => .zp zp
  | .incZpx zp => .zpx zp
  | .incAbs addr => .abs addr
  | .incAbx addr => .abx addr
  | .inx => .imp
  | .iny => .imp
  | .jmpAbs addr => .abs addr
  | .jmpInd addr => .ind addr
  | .jsr addr => .abs addr
  | .ldaImm v => .imm v
  | .ldaZp zp => .zp zp
  | .ldaZpx zp => .zpx zp
  | .ldaAbs addr => .abs addr
  | .ldaAbx addr => .abx addr
  | .ldaAby addr => .aby addr
  | .ldaInx zp => .inx zp
  | .ldaIny zp => .iny zp
  | .ldxImm v => .imm v
  | .ldxZp zp => .zp zp
  | .ldxZpy zp => .zpy zp
  | .ldxAbs addr => .abs addr
  | .ldxAby addr => .aby addr
  | .ldyImm v => .imm v
  | .ldyZp zp => .zp zp
  | .ldyZpx zp => .zpx zp
  | .ldyAbs addr => .abs addr
  | .ldyAbx addr => .abx addr
  | .lsrAcc => .acc
  | .lsrZp zp => .zp zp
  | .lsrZpx zp => .zpx zp
  | .lsrAbs addr => .abs addr
  | .lsrAbx addr => .abx addr
  | .nop => .imp
  | .oraImm v => .imm v
  | .oraZp zp => .zp zp
  | .oraZpx zp => .zpx zp
  | .oraAbs addr => .abs addr
  | .oraAbx addr => .abx addr
  | .oraAby addr => .aby addr
  | .oraInx zp => .inx zp
  | .oraIny zp => .iny zp
  | .pha => .imp
  | .php => .imp
  | .pla => .imp
  | .plp => .imp
  | .rolAcc => .acc
  | .rolZp zp => .zp zp
  | .rolZpx zp => .zpx zp
  | .rolAbs addr => .abs addr
  | .rolAbx addr => .abx addr
  | .rorAcc => .acc
  | .rorZp zp => .zp zp
  | .rorZpx zp => .zpx zp
  | .rorAbs addr => .abs addr
  | .rorAbx addr => .abx addr
  | .rti => .imp
  | .rts => .imp
  | .sbcImm v => .imm v
  | .sbcZp zp => .zp zp
  | .sbcZpx zp => .zpx zp
  | .sbcAbs addr => .abs addr
  | .sbcAbx addr => .abx addr
  | .sbcAby addr => .aby addr
  | .sbcInx zp => .inx zp
  | .sbcIny zp => .iny zp
  | .sec => .imp
  | .sed => .imp
  | .sei => .imp
  | .staZp zp => .zp zp
  | .staZpx zp => .zpx zp
  | .staAbs addr => .abs addr
  | .staAbx addr => .abx addr
  | .staAby addr => .aby addr
  | .staInx zp => .inx zp
  | .staIny zp => .iny zp
  | .stxZp zp => .zp zp
  | .stxZpy zp => .zpy zp
  | .stxAbs addr => .abs addr
  | .styZp zp => .zp zp
  | .styZpx zp => .zpx zp
  | .styAbs addr => .abs addr
  | .tax => .imp
  | .tay => .imp
  | .tsx => .imp
  | .txa => .imp
  | .txs => .imp
  | .tya => .imp

/-- The length in bytes of an instruction (R71). -/
def Instr.len (i : Instr) : Nat := i.operand.len

end Sys2Proof
end

