-- ==== Sys2Proof/WellFormed.lean ====
section
/-! DEFINITION. Sys2Proof/WellFormed.lean: what the opcode table and an instruction must satisfy, each check of its
own name, all decidable. The spec restricts no operand value ("every value of the operand bytes is legal for every
defined instruction", 30_encoding.md R94), so what can be ill-formed is a pair of mnemonic and operand form, a
descriptor, or a table; the type `Instr` has no term whose form its mnemonic does not allow. -/

namespace Sys2Proof

/-- The operand forms of each mnemonic: the "opcodes by form" table of R92. -/
def formsOf : Mnemonic → List OperandForm
  | .adc | .and | .cmp | .eor | .lda | .ora | .sbc => [.imm, .zp, .zpx, .abs, .abx, .aby, .inx, .iny]
  | .asl | .lsr | .rol | .ror => [.acc, .zp, .zpx, .abs, .abx]
  | .bcc | .bcs | .beq | .bmi | .bne | .bpl | .bvc | .bvs => [.rel]
  | .bit => [.zp, .abs]
  | .brk | .clc | .cld | .cli | .clv | .dex | .dey | .inx | .iny | .nop | .pha | .php | .pla | .plp | .rti | .rts | .sec | .sed | .sei | .tax | .tay | .tsx | .txa | .txs | .tya => [.imp]
  | .cpx | .cpy => [.imm, .zp, .abs]
  | .dec | .inc => [.zp, .zpx, .abs, .abx]
  | .jmp => [.abs, .ind]
  | .jsr => [.abs]
  | .ldx => [.imm, .zp, .zpy, .abs, .aby]
  | .ldy => [.imm, .zp, .zpx, .abs, .abx]
  | .sta => [.zp, .zpx, .abs, .abx, .aby, .inx, .iny]
  | .stx => [.zp, .zpy, .abs]
  | .sty => [.zp, .zpx, .abs]

/-- Check: the mnemonic has an opcode with this form (R92). -/
def formAllowed (mn : Mnemonic) (f : OperandForm) : Bool := (formsOf mn).contains f

/-- Check: a descriptor's `len` is that of its form (R71). -/
def Descriptor.lenMatchesForm (d : Descriptor) : Bool := d.len == d.form.len

/-- Check: a descriptor's mode tag is that of its form (R71, R74). -/
def Descriptor.modeMatchesForm (d : Descriptor) : Bool := d.mode == d.form.tag

/-- A descriptor is well-formed: its three columns agree (R71, R92). -/
def Descriptor.wellFormed (d : Descriptor) : Bool :=
  formAllowed d.mnemonic d.form && d.lenMatchesForm && d.modeMatchesForm

/-- Check: "Each `code` value appears exactly once in the canonical table" (R72). -/
def codesDistinct : List Descriptor → Bool
  | [] => true
  | d :: ds => ds.all (fun e => e.code != d.code) && codesDistinct ds

/-- A table is well-formed: every row is, and no code appears twice (R72, R95). -/
def tableWellFormed (ds : List Descriptor) : Bool := ds.all Descriptor.wellFormed && codesDistinct ds

/-- An instruction is well-formed: its operand form is one its mnemonic has (R92). -/
def Instr.wellFormed (i : Instr) : Bool := formAllowed i.mnemonic i.operand.form

end Sys2Proof
end

