-- ==== Sys2Proof/Decode.lean ====
section
/-! DEFINITION. Sys2Proof/Decode.lean: the byte-order helpers, the opcode table (30_encoding.md R72, R73, R92), the
decoder, total on any bytes and rejecting by name, then the encoder, and the opcode table's own numbering of bits
(`decodeTableWord`). The rows of the table follow spec/opcode_table.json, the encoder's opcodes the "opcodes by form"
table of R92: two lists written apart, shown equal in Sys2Proof/Laws/Decode.lean. -/

namespace Sys2Proof

/-- `hi:lo`, the 16-bit value `(hi << 8) | lo` (00_scope.md section 6). -/
def hiLo (hi lo : Byte) : Addr := (hi.setWidth 16 <<< 8) ||| lo.setWidth 16

/-- `v[7:0]` of a 16-bit value. -/
def loByte (v : Addr) : Byte := v.setWidth 8

/-- `v[15:8]` of a 16-bit value. -/
def hiByte (v : Addr) : Byte := (v >>> 8).setWidth 8

/-- A row of the opcode table: the descriptor (R72) and the instruction that the operand bytes make (R70). -/
structure OpcodeRow where
  descriptor : Descriptor
  build : Byte → Byte → Instr

/-- One row, its columns in the order code, mnemonic, form, len, cycles, mode. -/
def opcodeRow (code : Byte) (mn : Mnemonic) (f : OperandForm) (len cycles : Nat) (mode : AddressingMode)
    (build : Byte → Byte → Instr) : OpcodeRow :=
  { descriptor := { code := code, mnemonic := mn, form := f, len := len, cycles := cycles, mode := mode }
    build := build }

/-- The defined opcodes 0x00 to 0x0F (R92). -/
def opcodeRows0 : List OpcodeRow := [
  opcodeRow 0x00#8 .brk .imp 1 7 .noneAddressing (fun _ _ => .brk),
  opcodeRow 0x01#8 .ora .inx 2 6 .indirectX (fun b1 _ => .oraInx b1),
  opcodeRow 0x05#8 .ora .zp 2 3 .zeroPage (fun b1 _ => .oraZp b1),
  opcodeRow 0x06#8 .asl .zp 2 5 .zeroPage (fun b1 _ => .aslZp b1),
  opcodeRow 0x08#8 .php .imp 1 3 .noneAddressing (fun _ _ => .php),
  opcodeRow 0x09#8 .ora .imm 2 2 .immediate (fun b1 _ => .oraImm b1),
  opcodeRow 0x0A#8 .asl .acc 1 2 .noneAddressing (fun _ _ => .aslAcc),
  opcodeRow 0x0D#8 .ora .abs 3 4 .absolute (fun b1 b2 => .oraAbs (hiLo b2 b1)),
  opcodeRow 0x0E#8 .asl .abs 3 6 .absolute (fun b1 b2 => .aslAbs (hiLo b2 b1))]

/-- The defined opcodes 0x10 to 0x1F (R92). -/
def opcodeRows1 : List OpcodeRow := [
  opcodeRow 0x10#8 .bpl .rel 2 2 .noneAddressing (fun b1 _ => .bpl b1),
  opcodeRow 0x11#8 .ora .iny 2 5 .indirectY (fun b1 _ => .oraIny b1),
  opcodeRow 0x15#8 .ora .zpx 2 4 .zeroPageX (fun b1 _ => .oraZpx b1),
  opcodeRow 0x16#8 .asl .zpx 2 6 .zeroPageX (fun b1 _ => .aslZpx b1),
  opcodeRow 0x18#8 .clc .imp 1 2 .noneAddressing (fun _ _ => .clc),
  opcodeRow 0x19#8 .ora .aby 3 4 .absoluteY (fun b1 b2 => .oraAby (hiLo b2 b1)),
  opcodeRow 0x1D#8 .ora .abx 3 4 .absoluteX (fun b1 b2 => .oraAbx (hiLo b2 b1)),
  opcodeRow 0x1E#8 .asl .abx 3 7 .absoluteX (fun b1 b2 => .aslAbx (hiLo b2 b1))]

/-- The defined opcodes 0x20 to 0x2F (R92). -/
def opcodeRows2 : List OpcodeRow := [
  opcodeRow 0x20#8 .jsr .abs 3 6 .absolute (fun b1 b2 => .jsr (hiLo b2 b1)),
  opcodeRow 0x21#8 .and .inx 2 6 .indirectX (fun b1 _ => .andInx b1),
  opcodeRow 0x24#8 .bit .zp 2 3 .zeroPage (fun b1 _ => .bitZp b1),
  opcodeRow 0x25#8 .and .zp 2 3 .zeroPage (fun b1 _ => .andZp b1),
  opcodeRow 0x26#8 .rol .zp 2 5 .zeroPage (fun b1 _ => .rolZp b1),
  opcodeRow 0x28#8 .plp .imp 1 4 .noneAddressing (fun _ _ => .plp),
  opcodeRow 0x29#8 .and .imm 2 2 .immediate (fun b1 _ => .andImm b1),
  opcodeRow 0x2A#8 .rol .acc 1 2 .noneAddressing (fun _ _ => .rolAcc),
  opcodeRow 0x2C#8 .bit .abs 3 4 .absolute (fun b1 b2 => .bitAbs (hiLo b2 b1)),
  opcodeRow 0x2D#8 .and .abs 3 4 .absolute (fun b1 b2 => .andAbs (hiLo b2 b1)),
  opcodeRow 0x2E#8 .rol .abs 3 6 .absolute (fun b1 b2 => .rolAbs (hiLo b2 b1))]

/-- The defined opcodes 0x30 to 0x3F (R92). -/
def opcodeRows3 : List OpcodeRow := [
  opcodeRow 0x30#8 .bmi .rel 2 2 .noneAddressing (fun b1 _ => .bmi b1),
  opcodeRow 0x31#8 .and .iny 2 5 .indirectY (fun b1 _ => .andIny b1),
  opcodeRow 0x35#8 .and .zpx 2 4 .zeroPageX (fun b1 _ => .andZpx b1),
  opcodeRow 0x36#8 .rol .zpx 2 6 .zeroPageX (fun b1 _ => .rolZpx b1),
  opcodeRow 0x38#8 .sec .imp 1 2 .noneAddressing (fun _ _ => .sec),
  opcodeRow 0x39#8 .and .aby 3 4 .absoluteY (fun b1 b2 => .andAby (hiLo b2 b1)),
  opcodeRow 0x3D#8 .and .abx 3 4 .absoluteX (fun b1 b2 => .andAbx (hiLo b2 b1)),
  opcodeRow 0x3E#8 .rol .abx 3 7 .absoluteX (fun b1 b2 => .rolAbx (hiLo b2 b1))]

/-- The defined opcodes 0x40 to 0x4F (R92). -/
def opcodeRows4 : List OpcodeRow := [
  opcodeRow 0x40#8 .rti .imp 1 6 .noneAddressing (fun _ _ => .rti),
  opcodeRow 0x41#8 .eor .inx 2 6 .indirectX (fun b1 _ => .eorInx b1),
  opcodeRow 0x45#8 .eor .zp 2 3 .zeroPage (fun b1 _ => .eorZp b1),
  opcodeRow 0x46#8 .lsr .zp 2 5 .zeroPage (fun b1 _ => .lsrZp b1),
  opcodeRow 0x48#8 .pha .imp 1 3 .noneAddressing (fun _ _ => .pha),
  opcodeRow 0x49#8 .eor .imm 2 2 .immediate (fun b1 _ => .eorImm b1),
  opcodeRow 0x4A#8 .lsr .acc 1 2 .noneAddressing (fun _ _ => .lsrAcc),
  opcodeRow 0x4C#8 .jmp .abs 3 3 .absolute (fun b1 b2 => .jmpAbs (hiLo b2 b1)),
  opcodeRow 0x4D#8 .eor .abs 3 4 .absolute (fun b1 b2 => .eorAbs (hiLo b2 b1)),
  opcodeRow 0x4E#8 .lsr .abs 3 6 .absolute (fun b1 b2 => .lsrAbs (hiLo b2 b1))]

/-- The defined opcodes 0x50 to 0x5F (R92). -/
def opcodeRows5 : List OpcodeRow := [
  opcodeRow 0x50#8 .bvc .rel 2 2 .noneAddressing (fun b1 _ => .bvc b1),
  opcodeRow 0x51#8 .eor .iny 2 5 .indirectY (fun b1 _ => .eorIny b1),
  opcodeRow 0x55#8 .eor .zpx 2 4 .zeroPageX (fun b1 _ => .eorZpx b1),
  opcodeRow 0x56#8 .lsr .zpx 2 6 .zeroPageX (fun b1 _ => .lsrZpx b1),
  opcodeRow 0x58#8 .cli .imp 1 2 .noneAddressing (fun _ _ => .cli),
  opcodeRow 0x59#8 .eor .aby 3 4 .absoluteY (fun b1 b2 => .eorAby (hiLo b2 b1)),
  opcodeRow 0x5D#8 .eor .abx 3 4 .absoluteX (fun b1 b2 => .eorAbx (hiLo b2 b1)),
  opcodeRow 0x5E#8 .lsr .abx 3 7 .absoluteX (fun b1 b2 => .lsrAbx (hiLo b2 b1))]

/-- The defined opcodes 0x60 to 0x6F (R92). -/
def opcodeRows6 : List OpcodeRow := [
  opcodeRow 0x60#8 .rts .imp 1 6 .noneAddressing (fun _ _ => .rts),
  opcodeRow 0x61#8 .adc .inx 2 6 .indirectX (fun b1 _ => .adcInx b1),
  opcodeRow 0x65#8 .adc .zp 2 3 .zeroPage (fun b1 _ => .adcZp b1),
  opcodeRow 0x66#8 .ror .zp 2 5 .zeroPage (fun b1 _ => .rorZp b1),
  opcodeRow 0x68#8 .pla .imp 1 4 .noneAddressing (fun _ _ => .pla),
  opcodeRow 0x69#8 .adc .imm 2 2 .immediate (fun b1 _ => .adcImm b1),
  opcodeRow 0x6A#8 .ror .acc 1 2 .noneAddressing (fun _ _ => .rorAcc),
  opcodeRow 0x6C#8 .jmp .ind 3 5 .indirect (fun b1 b2 => .jmpInd (hiLo b2 b1)),
  opcodeRow 0x6D#8 .adc .abs 3 4 .absolute (fun b1 b2 => .adcAbs (hiLo b2 b1)),
  opcodeRow 0x6E#8 .ror .abs 3 6 .absolute (fun b1 b2 => .rorAbs (hiLo b2 b1))]

/-- The defined opcodes 0x70 to 0x7F (R92). -/
def opcodeRows7 : List OpcodeRow := [
  opcodeRow 0x70#8 .bvs .rel 2 2 .noneAddressing (fun b1 _ => .bvs b1),
  opcodeRow 0x71#8 .adc .iny 2 5 .indirectY (fun b1 _ => .adcIny b1),
  opcodeRow 0x75#8 .adc .zpx 2 4 .zeroPageX (fun b1 _ => .adcZpx b1),
  opcodeRow 0x76#8 .ror .zpx 2 6 .zeroPageX (fun b1 _ => .rorZpx b1),
  opcodeRow 0x78#8 .sei .imp 1 2 .noneAddressing (fun _ _ => .sei),
  opcodeRow 0x79#8 .adc .aby 3 4 .absoluteY (fun b1 b2 => .adcAby (hiLo b2 b1)),
  opcodeRow 0x7D#8 .adc .abx 3 4 .absoluteX (fun b1 b2 => .adcAbx (hiLo b2 b1)),
  opcodeRow 0x7E#8 .ror .abx 3 7 .absoluteX (fun b1 b2 => .rorAbx (hiLo b2 b1))]

/-- The defined opcodes 0x80 to 0x8F (R92). -/
def opcodeRows8 : List OpcodeRow := [
  opcodeRow 0x81#8 .sta .inx 2 6 .indirectX (fun b1 _ => .staInx b1),
  opcodeRow 0x84#8 .sty .zp 2 3 .zeroPage (fun b1 _ => .styZp b1),
  opcodeRow 0x85#8 .sta .zp 2 3 .zeroPage (fun b1 _ => .staZp b1),
  opcodeRow 0x86#8 .stx .zp 2 3 .zeroPage (fun b1 _ => .stxZp b1),
  opcodeRow 0x88#8 .dey .imp 1 2 .noneAddressing (fun _ _ => .dey),
  opcodeRow 0x8A#8 .txa .imp 1 2 .noneAddressing (fun _ _ => .txa),
  opcodeRow 0x8C#8 .sty .abs 3 4 .absolute (fun b1 b2 => .styAbs (hiLo b2 b1)),
  opcodeRow 0x8D#8 .sta .abs 3 4 .absolute (fun b1 b2 => .staAbs (hiLo b2 b1)),
  opcodeRow 0x8E#8 .stx .abs 3 4 .absolute (fun b1 b2 => .stxAbs (hiLo b2 b1))]

/-- The defined opcodes 0x90 to 0x9F (R92). -/
def opcodeRows9 : List OpcodeRow := [
  opcodeRow 0x90#8 .bcc .rel 2 2 .noneAddressing (fun b1 _ => .bcc b1),
  opcodeRow 0x91#8 .sta .iny 2 6 .indirectY (fun b1 _ => .staIny b1),
  opcodeRow 0x94#8 .sty .zpx 2 4 .zeroPageX (fun b1 _ => .styZpx b1),
  opcodeRow 0x95#8 .sta .zpx 2 4 .zeroPageX (fun b1 _ => .staZpx b1),
  opcodeRow 0x96#8 .stx .zpy 2 4 .zeroPageY (fun b1 _ => .stxZpy b1),
  opcodeRow 0x98#8 .tya .imp 1 2 .noneAddressing (fun _ _ => .tya),
  opcodeRow 0x99#8 .sta .aby 3 5 .absoluteY (fun b1 b2 => .staAby (hiLo b2 b1)),
  opcodeRow 0x9A#8 .txs .imp 1 2 .noneAddressing (fun _ _ => .txs),
  opcodeRow 0x9D#8 .sta .abx 3 5 .absoluteX (fun b1 b2 => .staAbx (hiLo b2 b1))]

/-- The defined opcodes 0xA0 to 0xAF (R92). -/
def opcodeRowsA : List OpcodeRow := [
  opcodeRow 0xA0#8 .ldy .imm 2 2 .immediate (fun b1 _ => .ldyImm b1),
  opcodeRow 0xA1#8 .lda .inx 2 6 .indirectX (fun b1 _ => .ldaInx b1),
  opcodeRow 0xA2#8 .ldx .imm 2 2 .immediate (fun b1 _ => .ldxImm b1),
  opcodeRow 0xA4#8 .ldy .zp 2 3 .zeroPage (fun b1 _ => .ldyZp b1),
  opcodeRow 0xA5#8 .lda .zp 2 3 .zeroPage (fun b1 _ => .ldaZp b1),
  opcodeRow 0xA6#8 .ldx .zp 2 3 .zeroPage (fun b1 _ => .ldxZp b1),
  opcodeRow 0xA8#8 .tay .imp 1 2 .noneAddressing (fun _ _ => .tay),
  opcodeRow 0xA9#8 .lda .imm 2 2 .immediate (fun b1 _ => .ldaImm b1),
  opcodeRow 0xAA#8 .tax .imp 1 2 .noneAddressing (fun _ _ => .tax),
  opcodeRow 0xAC#8 .ldy .abs 3 4 .absolute (fun b1 b2 => .ldyAbs (hiLo b2 b1)),
  opcodeRow 0xAD#8 .lda .abs 3 4 .absolute (fun b1 b2 => .ldaAbs (hiLo b2 b1)),
  opcodeRow 0xAE#8 .ldx .abs 3 4 .absolute (fun b1 b2 => .ldxAbs (hiLo b2 b1))]

/-- The defined opcodes 0xB0 to 0xBF (R92). -/
def opcodeRowsB : List OpcodeRow := [
  opcodeRow 0xB0#8 .bcs .rel 2 2 .noneAddressing (fun b1 _ => .bcs b1),
  opcodeRow 0xB1#8 .lda .iny 2 5 .indirectY (fun b1 _ => .ldaIny b1),
  opcodeRow 0xB4#8 .ldy .zpx 2 4 .zeroPageX (fun b1 _ => .ldyZpx b1),
  opcodeRow 0xB5#8 .lda .zpx 2 4 .zeroPageX (fun b1 _ => .ldaZpx b1),
  opcodeRow 0xB6#8 .ldx .zpy 2 4 .zeroPageY (fun b1 _ => .ldxZpy b1),
  opcodeRow 0xB8#8 .clv .imp 1 2 .noneAddressing (fun _ _ => .clv),
  opcodeRow 0xB9#8 .lda .aby 3 4 .absoluteY (fun b1 b2 => .ldaAby (hiLo b2 b1)),
  opcodeRow 0xBA#8 .tsx .imp 1 2 .noneAddressing (fun _ _ => .tsx),
  opcodeRow 0xBC#8 .ldy .abx 3 4 .absoluteX (fun b1 b2 => .ldyAbx (hiLo b2 b1)),
  opcodeRow 0xBD#8 .lda .abx 3 4 .absoluteX (fun b1 b2 => .ldaAbx (hiLo b2 b1)),
  opcodeRow 0xBE#8 .ldx .aby 3 4 .absoluteY (fun b1 b2 => .ldxAby (hiLo b2 b1))]

/-- The defined opcodes 0xC0 to 0xCF (R92). -/
def opcodeRowsC : List OpcodeRow := [
  opcodeRow 0xC0#8 .cpy .imm 2 2 .immediate (fun b1 _ => .cpyImm b1),
  opcodeRow 0xC1#8 .cmp .inx 2 6 .indirectX (fun b1 _ => .cmpInx b1),
  opcodeRow 0xC4#8 .cpy .zp 2 3 .zeroPage (fun b1 _ => .cpyZp b1),
  opcodeRow 0xC5#8 .cmp .zp 2 3 .zeroPage (fun b1 _ => .cmpZp b1),
  opcodeRow 0xC6#8 .dec .zp 2 5 .zeroPage (fun b1 _ => .decZp b1),
  opcodeRow 0xC8#8 .iny .imp 1 2 .noneAddressing (fun _ _ => .iny),
  opcodeRow 0xC9#8 .cmp .imm 2 2 .immediate (fun b1 _ => .cmpImm b1),
  opcodeRow 0xCA#8 .dex .imp 1 2 .noneAddressing (fun _ _ => .dex),
  opcodeRow 0xCC#8 .cpy .abs 3 4 .absolute (fun b1 b2 => .cpyAbs (hiLo b2 b1)),
  opcodeRow 0xCD#8 .cmp .abs 3 4 .absolute (fun b1 b2 => .cmpAbs (hiLo b2 b1)),
  opcodeRow 0xCE#8 .dec .abs 3 6 .absolute (fun b1 b2 => .decAbs (hiLo b2 b1))]

/-- The defined opcodes 0xD0 to 0xDF (R92). -/
def opcodeRowsD : List OpcodeRow := [
  opcodeRow 0xD0#8 .bne .rel 2 2 .noneAddressing (fun b1 _ => .bne b1),
  opcodeRow 0xD1#8 .cmp .iny 2 5 .indirectY (fun b1 _ => .cmpIny b1),
  opcodeRow 0xD5#8 .cmp .zpx 2 4 .zeroPageX (fun b1 _ => .cmpZpx b1),
  opcodeRow 0xD6#8 .dec .zpx 2 6 .zeroPageX (fun b1 _ => .decZpx b1),
  opcodeRow 0xD8#8 .cld .imp 1 2 .noneAddressing (fun _ _ => .cld),
  opcodeRow 0xD9#8 .cmp .aby 3 4 .absoluteY (fun b1 b2 => .cmpAby (hiLo b2 b1)),
  opcodeRow 0xDD#8 .cmp .abx 3 4 .absoluteX (fun b1 b2 => .cmpAbx (hiLo b2 b1)),
  opcodeRow 0xDE#8 .dec .abx 3 7 .absoluteX (fun b1 b2 => .decAbx (hiLo b2 b1))]

/-- The defined opcodes 0xE0 to 0xEF (R92). -/
def opcodeRowsE : List OpcodeRow := [
  opcodeRow 0xE0#8 .cpx .imm 2 2 .immediate (fun b1 _ => .cpxImm b1),
  opcodeRow 0xE1#8 .sbc .inx 2 6 .indirectX (fun b1 _ => .sbcInx b1),
  opcodeRow 0xE4#8 .cpx .zp 2 3 .zeroPage (fun b1 _ => .cpxZp b1),
  opcodeRow 0xE5#8 .sbc .zp 2 3 .zeroPage (fun b1 _ => .sbcZp b1),
  opcodeRow 0xE6#8 .inc .zp 2 5 .zeroPage (fun b1 _ => .incZp b1),
  opcodeRow 0xE8#8 .inx .imp 1 2 .noneAddressing (fun _ _ => .inx),
  opcodeRow 0xE9#8 .sbc .imm 2 2 .immediate (fun b1 _ => .sbcImm b1),
  opcodeRow 0xEA#8 .nop .imp 1 2 .noneAddressing (fun _ _ => .nop),
  opcodeRow 0xEC#8 .cpx .abs 3 4 .absolute (fun b1 b2 => .cpxAbs (hiLo b2 b1)),
  opcodeRow 0xED#8 .sbc .abs 3 4 .absolute (fun b1 b2 => .sbcAbs (hiLo b2 b1)),
  opcodeRow 0xEE#8 .inc .abs 3 6 .absolute (fun b1 b2 => .incAbs (hiLo b2 b1))]

/-- The defined opcodes 0xF0 to 0xFF (R92). -/
def opcodeRowsF : List OpcodeRow := [
  opcodeRow 0xF0#8 .beq .rel 2 2 .noneAddressing (fun b1 _ => .beq b1),
  opcodeRow 0xF1#8 .sbc .iny 2 5 .indirectY (fun b1 _ => .sbcIny b1),
  opcodeRow 0xF5#8 .sbc .zpx 2 4 .zeroPageX (fun b1 _ => .sbcZpx b1),
  opcodeRow 0xF6#8 .inc .zpx 2 6 .zeroPageX (fun b1 _ => .incZpx b1),
  opcodeRow 0xF8#8 .sed .imp 1 2 .noneAddressing (fun _ _ => .sed),
  opcodeRow 0xF9#8 .sbc .aby 3 4 .absoluteY (fun b1 b2 => .sbcAby (hiLo b2 b1)),
  opcodeRow 0xFD#8 .sbc .abx 3 4 .absoluteX (fun b1 b2 => .sbcAbx (hiLo b2 b1)),
  opcodeRow 0xFE#8 .inc .abx 3 7 .absoluteX (fun b1 b2 => .incAbx (hiLo b2 b1))]

/-- The opcode table: the 151 defined opcodes (R92). It is a constant, not state (R73). -/
def opcodeTable : List OpcodeRow :=
  opcodeRows0 ++ opcodeRows1 ++ opcodeRows2 ++ opcodeRows3 ++ opcodeRows4 ++ opcodeRows5 ++ opcodeRows6 ++
  opcodeRows7 ++ opcodeRows8 ++ opcodeRows9 ++ opcodeRowsA ++ opcodeRowsB ++ opcodeRowsC ++ opcodeRowsD ++
  opcodeRowsE ++ opcodeRowsF

/-- The first row with this code. -/
def findRow (code : Byte) : List OpcodeRow → Option OpcodeRow
  | [] => none
  | r :: rs => if r.descriptor.code = code then some r else findRow code rs

/-- `Table[opcode]` (R73, R75): a row, or `none` for an illegal byte (R93). Total over all 256 values. -/
def lookupOpcode (code : Byte) : Option OpcodeRow := findRow code opcodeTable

/-- The descriptor of an opcode byte (R72). -/
def descriptorOf (code : Byte) : Option Descriptor := (lookupOpcode code).map OpcodeRow.descriptor

/-- The instruction whose opcode is `b0` and whose operand bytes, as far as it has any, are `b1` (the byte after the
opcode) and `b2` (the one after that); `none` when `b0` is illegal (R70, R73, R93). -/
def instrOf (b0 b1 b2 : Byte) : Option Instr := (lookupOpcode b0).map fun r => r.build b1 b2

/-- Why bytes are no instruction. `noBytes`: there is not even an opcode byte. `illegalOpcode`: the byte is one of the
105 of R93. `truncated`: the opcode is defined and its operand bytes are missing. -/
inductive DecodeReject where
  | noBytes
  | illegalOpcode (opcode : Byte)
  | truncated (opcode : Byte)
deriving DecidableEq, Repr

/-- The instruction at the head of a list of bytes and the bytes after it (R70). -/
def decode : List Byte → Except DecodeReject (Instr × List Byte)
  | [] => .error .noBytes
  | b0 :: rest =>
    match lookupOpcode b0 with
    | none => .error (.illegalOpcode b0)
    | some r =>
      match r.descriptor.len, rest with
      | 1, tail => .ok (r.build 0#8 0#8, tail)
      | 2, b1 :: tail => .ok (r.build b1 0#8, tail)
      | 3, b1 :: b2 :: tail => .ok (r.build b1 b2, tail)
      | _, _ => .error (.truncated b0)

/-- The opcode byte of an instruction (R92, "opcodes by form"). -/
def Instr.opcode : Instr → Byte
  | .adcImm _ => 0x69#8
  | .adcZp _ => 0x65#8
  | .adcZpx _ => 0x75#8
  | .adcAbs _ => 0x6D#8
  | .adcAbx _ => 0x7D#8
  | .adcAby _ => 0x79#8
  | .adcInx _ => 0x61#8
  | .adcIny _ => 0x71#8
  | .andImm _ => 0x29#8
  | .andZp _ => 0x25#8
  | .andZpx _ => 0x35#8
  | .andAbs _ => 0x2D#8
  | .andAbx _ => 0x3D#8
  | .andAby _ => 0x39#8
  | .andInx _ => 0x21#8
  | .andIny _ => 0x31#8
  | .aslAcc => 0x0A#8
  | .aslZp _ => 0x06#8
  | .aslZpx _ => 0x16#8
  | .aslAbs _ => 0x0E#8
  | .aslAbx _ => 0x1E#8
  | .bcc _ => 0x90#8
  | .bcs _ => 0xB0#8
  | .beq _ => 0xF0#8
  | .bitZp _ => 0x24#8
  | .bitAbs _ => 0x2C#8
  | .bmi _ => 0x30#8
  | .bne _ => 0xD0#8
  | .bpl _ => 0x10#8
  | .brk => 0x00#8
  | .bvc _ => 0x50#8
  | .bvs _ => 0x70#8
  | .clc => 0x18#8
  | .cld => 0xD8#8
  | .cli => 0x58#8
  | .clv => 0xB8#8
  | .cmpImm _ => 0xC9#8
  | .cmpZp _ => 0xC5#8
  | .cmpZpx _ => 0xD5#8
  | .cmpAbs _ => 0xCD#8
  | .cmpAbx _ => 0xDD#8
  | .cmpAby _ => 0xD9#8
  | .cmpInx _ => 0xC1#8
  | .cmpIny _ => 0xD1#8
  | .cpxImm _ => 0xE0#8
  | .cpxZp _ => 0xE4#8
  | .cpxAbs _ => 0xEC#8
  | .cpyImm _ => 0xC0#8
  | .cpyZp _ => 0xC4#8
  | .cpyAbs _ => 0xCC#8
  | .decZp _ => 0xC6#8
  | .decZpx _ => 0xD6#8
  | .decAbs _ => 0xCE#8
  | .decAbx _ => 0xDE#8
  | .dex => 0xCA#8
  | .dey => 0x88#8
  | .eorImm _ => 0x49#8
  | .eorZp _ => 0x45#8
  | .eorZpx _ => 0x55#8
  | .eorAbs _ => 0x4D#8
  | .eorAbx _ => 0x5D#8
  | .eorAby _ => 0x59#8
  | .eorInx _ => 0x41#8
  | .eorIny _ => 0x51#8
  | .incZp _ => 0xE6#8
  | .incZpx _ => 0xF6#8
  | .incAbs _ => 0xEE#8
  | .incAbx _ => 0xFE#8
  | .inx => 0xE8#8
  | .iny => 0xC8#8
  | .jmpAbs _ => 0x4C#8
  | .jmpInd _ => 0x6C#8
  | .jsr _ => 0x20#8
  | .ldaImm _ => 0xA9#8
  | .ldaZp _ => 0xA5#8
  | .ldaZpx _ => 0xB5#8
  | .ldaAbs _ => 0xAD#8
  | .ldaAbx _ => 0xBD#8
  | .ldaAby _ => 0xB9#8
  | .ldaInx _ => 0xA1#8
  | .ldaIny _ => 0xB1#8
  | .ldxImm _ => 0xA2#8
  | .ldxZp _ => 0xA6#8
  | .ldxZpy _ => 0xB6#8
  | .ldxAbs _ => 0xAE#8
  | .ldxAby _ => 0xBE#8
  | .ldyImm _ => 0xA0#8
  | .ldyZp _ => 0xA4#8
  | .ldyZpx _ => 0xB4#8
  | .ldyAbs _ => 0xAC#8
  | .ldyAbx _ => 0xBC#8
  | .lsrAcc => 0x4A#8
  | .lsrZp _ => 0x46#8
  | .lsrZpx _ => 0x56#8
  | .lsrAbs _ => 0x4E#8
  | .lsrAbx _ => 0x5E#8
  | .nop => 0xEA#8
  | .oraImm _ => 0x09#8
  | .oraZp _ => 0x05#8
  | .oraZpx _ => 0x15#8
  | .oraAbs _ => 0x0D#8
  | .oraAbx _ => 0x1D#8
  | .oraAby _ => 0x19#8
  | .oraInx _ => 0x01#8
  | .oraIny _ => 0x11#8
  | .pha => 0x48#8
  | .php => 0x08#8
  | .pla => 0x68#8
  | .plp => 0x28#8
  | .rolAcc => 0x2A#8
  | .rolZp _ => 0x26#8
  | .rolZpx _ => 0x36#8
  | .rolAbs _ => 0x2E#8
  | .rolAbx _ => 0x3E#8
  | .rorAcc => 0x6A#8
  | .rorZp _ => 0x66#8
  | .rorZpx _ => 0x76#8
  | .rorAbs _ => 0x6E#8
  | .rorAbx _ => 0x7E#8
  | .rti => 0x40#8
  | .rts => 0x60#8
  | .sbcImm _ => 0xE9#8
  | .sbcZp _ => 0xE5#8
  | .sbcZpx _ => 0xF5#8
  | .sbcAbs _ => 0xED#8
  | .sbcAbx _ => 0xFD#8
  | .sbcAby _ => 0xF9#8
  | .sbcInx _ => 0xE1#8
  | .sbcIny _ => 0xF1#8
  | .sec => 0x38#8
  | .sed => 0xF8#8
  | .sei => 0x78#8
  | .staZp _ => 0x85#8
  | .staZpx _ => 0x95#8
  | .staAbs _ => 0x8D#8
  | .staAbx _ => 0x9D#8
  | .staAby _ => 0x99#8
  | .staInx _ => 0x81#8
  | .staIny _ => 0x91#8
  | .stxZp _ => 0x86#8
  | .stxZpy _ => 0x96#8
  | .stxAbs _ => 0x8E#8
  | .styZp _ => 0x84#8
  | .styZpx _ => 0x94#8
  | .styAbs _ => 0x8C#8
  | .tax => 0xAA#8
  | .tay => 0xA8#8
  | .tsx => 0xBA#8
  | .txa => 0x8A#8
  | .txs => 0x9A#8
  | .tya => 0x98#8

/-- The operand bytes that follow the opcode, low byte first (R70, R71). -/
def Operand.bytes : Operand → List Byte
  | .imp | .acc => []
  | .imm v => [v]
  | .zp b | .zpx b | .zpy b | .inx b | .iny b => [b]
  | .rel b => [b]
  | .abs a | .abx a | .aby a | .ind a => [loByte a, hiByte a]

/-- The bytes of an instruction, in ascending address order (R46, R70). -/
def encode (i : Instr) : List Byte := i.opcode :: i.operand.bytes

/-- Byte `k` of an instruction numbered as spec/opcode_table.json numbers it: bit 0 is the least significant bit of the
first byte, and every bit from `nbits` up is 0. -/
def tableByte (nbits w k : Nat) : Byte := BitVec.ofNat 8 ((w % 2 ^ nbits) >>> (8 * k))

/-- The instruction the decoder reads from an instruction whose bits are `w`, in the table's numbering. -/
def decodeTableWord (nbits w : Nat) : Option Instr :=
  instrOf (tableByte nbits w 0) (tableByte nbits w 1) (tableByte nbits w 2)

end Sys2Proof
end

