-- ==== Sys2Proof/Config.lean ====
section
/-! DEFINITION. Sys2Proof/Config.lean: the parameters (00_scope.md R3, R4). R3's are constants. R4's TOP_POLICY is open:
its type and its default stand here, and a machine carries its value in State.topPolicy (log 1). The spec leaves no
value free (93_implementation_defined.md, end of Part 1), so no constant here is without a body. -/

namespace Sys2Proof

/-- TOP_POLICY (R4): what becomes of address arithmetic that leaves 0x0000 to 0xFFFF where the source prescribes no
wraparound. `refuse`: the step has no meaning. `wrap`: modulo 65536. -/
inductive TopPolicy where
  | refuse
  | wrap
deriving DecidableEq, Repr

namespace Config

/-- The default of TOP_POLICY (R4). -/
def defaultTopPolicy : TopPolicy := .refuse

/-- LOAD_BASE (R3). -/
def loadBase : Addr := 0x8000#16

/-- The most bytes `load` accepts (R3, R222). -/
def loadLimit : Nat := 0x7FFF

/-- RESET_VECTOR, the address of the vector's low byte (R3). -/
def resetVector : Addr := 0xFFFC#16

/-- The implicit high byte of the stack address, in place (R3, R25). -/
def stackPage : Addr := 0x0100#16

/-- The status register at construction and after reset (R3, R30). -/
def statusReset : Byte := 0x30#8

/-- Bits 4 and 5 of the status register, always 1 (R18). -/
def statusAlwaysOne : Byte := 0x30#8

/-- The stack pointer after reset (R3, R30), and at power-on (decision D7, log 3). -/
def stackReset : Byte := 0xFF#8

end Config

end Sys2Proof
end

