-- ==== Sys2Proof/Machine/State.lean ====
section
/-! DEFINITION. Sys2Proof/Machine/State.lean: the state (10_state.md R10), the reasons a step can stop (60_exceptions.md
R200) and the state after reset (R30, R223). -/

namespace Sys2Proof.Machine

/-- Why the machine stops with a fault (R200). Both are the source's "fatal" categories, terminal, and leave no
successor state (R205): safe. -/
inductive Fault where
  /-- Raised by `step` when the byte fetched as an opcode is one of the 105 illegal ones; holds that byte and the
  address it was fetched from (R93, R201). Safe: the spec stops here too. -/
  | decodeFault (opcode : Byte) (address : Addr)
  /-- Raised by the resolver when it is asked for the address of an operand whose tag is NoneAddressing (R90, R202).
  Safe: the spec stops here too, and no step reaches it. -/
  | addressingModeMisuse (mode : AddressingMode) (mnemonic : Mnemonic)
deriving DecidableEq, Repr

/-- Why a step or a host operation has no meaning. -/
inductive Refusal where
  /-- An arm of `exec` whose instruction has no meaning yet. Safe. No arm answers it. -/
  | notModelled (mnemonic : String)
  /-- `refuse AddressWrap`: raised under TOP_POLICY = refuse by a computation that leaves 0x0000 to 0xFFFF (R4, R5,
  R16). Safe: the spec refuses here too. -/
  | addressWrap
  /-- `LoadRefused(n)`: raised by the host operation `load` for a program of `n` > 0x7FFF bytes (R222). Safe. -/
  | loadRefused (n : Nat)
deriving DecidableEq, Repr

/-- How a step that has a successor state ended: `Next(s')` or `Halt(s')` (00_scope.md R5). -/
inductive StepEnd where
  | next
  | halt
deriving DecidableEq, Repr

/-- Memory: the cells that do not hold what an unlisted address reads as, in rising order of address (R27, R40). -/
abbrev Memory := List Host.Cell

/-- The architectural state (R10), and the model's own two fields. -/
structure State where
  /-- A, the accumulator (R11). -/
  a : Byte
  /-- X, index register (R12). -/
  x : Byte
  /-- Y, index register (R13). -/
  y : Byte
  /-- P, the status register, bits N V 1 1 D I Z C from 7 to 0 (R17, R18). -/
  p : Byte
  /-- SP, the stack pointer (R25). -/
  sp : Byte
  /-- PC, the program counter (R14). -/
  pc : Addr
  /-- M, the memory (R27). -/
  mem : Memory
  /-- The model's own: the value of the parameter TOP_POLICY (R4, log 1). Nothing writes it. -/
  topPolicy : TopPolicy
  /-- The model's own: whether the last step's outcome was `Next` or `Halt` (R5, log 2). No step reads it. -/
  lastStep : StepEnd
deriving DecidableEq, Repr

/-- The machine right after reset, nothing loaded (R30, R223): memory is all 0x00 (R27), so the vector at 0xFFFC
holds 0x0000. -/
def State.reset : State :=
  { a := 0x00#8
    x := 0x00#8
    y := 0x00#8
    p := Config.statusReset
    sp := Config.stackReset
    pc := 0x0000#16
    mem := []
    topPolicy := Config.defaultTopPolicy
    lastStep := .next }

end Sys2Proof.Machine
end

