-- ==== Sys2Proof/Machine/Flags.lean ====
section
/-! DEFINITION. Sys2Proof/Machine/Flags.lean: the status register's operations (10_state.md R17 to R21) and every result
and flag computation of the instruction rules: addition with carry (41_arithmetic.md R120, R121), BIT (42_logic_bit.md
R128), shifts and rotates (43_shift_rotate.md R130 to R133), compare (44_compare.md R134). -/

namespace Sys2Proof.Machine

/-- The six named flags (R17). -/
inductive Flag where
  | c | z | i | d | v | n
deriving DecidableEq, Repr

/-- `b(f)`, the flag's bit position in P (R17, R19). -/
def Flag.bit : Flag → Nat
  | .c => 0
  | .z => 1
  | .i => 2
  | .d => 3
  | .v => 6
  | .n => 7

/-- The byte with only the flag's bit set. -/
def Flag.mask (f : Flag) : Byte := 1#8 <<< f.bit

/-- `Flag(f)`: `(P >> b(f)) & 1` (R19). -/
def flag (f : Flag) (p : Byte) : Bool := p.getLsbD f.bit

/-- `SetFlag(f)`: `P | (1 << b(f))` (R19). -/
def setFlag (f : Flag) (p : Byte) : Byte := p ||| f.mask

/-- `ClearFlag(f)`: `P & ~(1 << b(f))` (R19). -/
def clearFlag (f : Flag) (p : Byte) : Byte := p &&& ~~~f.mask

/-- `P.f <- e`: SetFlag if `e`, else ClearFlag (R19). -/
def putFlag (f : Flag) (e : Bool) (p : Byte) : Byte := if e then setFlag f p else clearFlag f p

/-- `UpdateZN(r)`: Z iff `r` is 0, N iff bit 7 of `r` (R20). -/
def updateZN (r : Byte) (p : Byte) : Byte := putFlag .n (r.getLsbD 7) (putFlag .z (r == 0#8) p)

/-- `ReadP()`: the byte P (R21). -/
def readP (p : Byte) : Byte := p

/-- `LoadP(b)`: `b | 0x30` (R21, decision D6, log 14). -/
def loadP (b : Byte) : Byte := b ||| Config.statusAlwaysOne

/-- `sum = A + n + P.C`, an integer 0 to 511 (R120, R121). -/
def addSum (a n : Byte) (c : Bool) : Nat := a.toNat + n.toNat + c.toNat

/-- `r = sum mod 256` (R120, R121). -/
def addResult (a n : Byte) (c : Bool) : Byte := BitVec.ofNat 8 (addSum a n c)

/-- `P.C <- (sum > 255)` (R120, R121). -/
def addCarry (a n : Byte) (c : Bool) : Bool := decide (255 < addSum a n c)

/-- `P.V <- ((A ^ r) & (n ^ r) & 0x80) != 0` (R120, R121). -/
def addOverflow (a n : Byte) (c : Bool) : Bool :=
  ((a ^^^ addResult a n c) &&& (n ^^^ addResult a n c) &&& 0x80#8) != 0#8

/-- C, V, then UpdateZN of the result; I and D unchanged (R120, R121). -/
def addFlags (a n : Byte) (p : Byte) : Byte :=
  let c := flag .c p
  updateZN (addResult a n c) (putFlag .v (addOverflow a n c) (putFlag .c (addCarry a n c) p))

/-- SBC's operand as ADC sees it: `n = m ^ 0xFF` (R121). -/
def onesComplement (m : Byte) : Byte := m ^^^ 0xFF#8

/-- BIT: Z from `A & m`, N and V from bits 7 and 6 of `m` (R128). -/
def bitFlags (a m : Byte) (p : Byte) : Byte :=
  putFlag .v (m.getLsbD 6) (putFlag .n (m.getLsbD 7) (putFlag .z ((a &&& m) == 0#8) p))

/-- Compare: C iff `reg >= m` unsigned, Z iff equal, N from bit 7 of the wrapped difference (R134). -/
def compareFlags (reg m : Byte) (p : Byte) : Byte :=
  putFlag .n ((reg - m).getLsbD 7) (putFlag .z (reg == m) (putFlag .c (decide (m.toNat ≤ reg.toNat)) p))

/-- The four shifts and rotates (R129). -/
inductive ShiftOp where
  | asl | lsr | rol | ror
deriving DecidableEq, Repr

/-- `r`: the byte `v` moved by one bit, `c` the previous carry (R130 to R133). -/
def shiftResult (op : ShiftOp) (v : Byte) (c : Bool) : Byte :=
  match op with
  | .asl => v <<< 1
  | .lsr => v >>> 1
  | .rol => (v <<< 1) ||| (BitVec.ofNat 8 c.toNat)
  | .ror => (v >>> 1) ||| (BitVec.ofNat 8 c.toNat <<< 7)

/-- The bit shifted out, the new carry (R130 to R133). -/
def shiftCarry (op : ShiftOp) (v : Byte) : Bool :=
  match op with
  | .asl | .rol => v.getLsbD 7
  | .lsr | .ror => v.getLsbD 0

/-- C from the bit shifted out, then UpdateZN of the result (R130 to R133). -/
def shiftFlags (op : ShiftOp) (v : Byte) (p : Byte) : Byte :=
  updateZN (shiftResult op v (flag .c p)) (putFlag .c (shiftCarry op v) p)

end Sys2Proof.Machine
end

