-- ==== Sys2Proof/Machine/Ops.lean ====
section
/-! DEFINITION. Sys2Proof/Machine/Ops.lean: the named operations over memory and registers: memory and its canonical
form (20_memory.md R40 to R46), Inc16 (10_state.md R16), the stack (R50 to R53), the ways a step ends (30_encoding.md
R75, R76), the two events a step can raise (60_exceptions.md R200, R201; there is no trap entry, R208), the return from
interrupt (R209), and the fetch of an instruction's bytes. -/

namespace Sys2Proof.Machine

/-- What a step or a host operation answers. -/
abbrev Result := Host.Outcome State Fault Refusal

/-! ### Memory -/

/-- What an address with no entry reads as: memory is "zero-initialized" (R27). -/
def Memory.unlisted : Byte := 0x00#8

/-- The canonical form from address `lo` on. -/
def Memory.wfFrom (lo : Nat) : Memory → Bool
  | [] => true
  | (k, v) :: cells => decide (lo ≤ k) && decide (k < 65536) && v != Memory.unlisted && Memory.wfFrom (k + 1) cells

/-- The canonical form: addresses strictly rising, below 65536 (R40), no entry equal to what an unlisted address
reads as. -/
def Memory.wf (m : Memory) : Bool := Memory.wfFrom 0 m

/-- The byte listed for the key `k`. -/
def Memory.find (k : Nat) : Memory → Byte
  | [] => Memory.unlisted
  | (j, v) :: cells => if j = k then v else Memory.find k cells

/-- A new entry in its place, where `k` has none. -/
def Memory.insert (k : Nat) (v : Byte) : Memory → Memory
  | [] => [(k, v)]
  | (j, w) :: cells => if k < j then (k, v) :: (j, w) :: cells else (j, w) :: Memory.insert k v cells

/-- The entries but `k`'s. -/
def Memory.erase (k : Nat) : Memory → Memory
  | [] => []
  | (j, w) :: cells => if j = k then Memory.erase k cells else (j, w) :: Memory.erase k cells

/-- Store `v` at the key `k`, keeping the canonical form. -/
def Memory.put (k : Nat) (v : Byte) (m : Memory) : Memory :=
  if v = Memory.unlisted then m.erase k else (m.erase k).insert k v

/-- `MemRead(addr)`: cannot fail and changes nothing (R41). -/
def State.read (s : State) (addr : Addr) : Byte := s.mem.find addr.toNat

/-- `MemWrite(addr, v)`: changes that one byte and cannot fail (R42). -/
def State.write (s : State) (addr : Addr) (v : Byte) : State := { s with mem := s.mem.put addr.toNat v }

/-! ### Registers -/

/-- The registers an instruction moves as a byte (R10); the mnemonic names them (R13). -/
inductive Reg where
  | a | x | y | sp
deriving DecidableEq, Repr

def State.setA (s : State) (v : Byte) : State := { s with a := v }

def State.setX (s : State) (v : Byte) : State := { s with x := v }

def State.setY (s : State) (v : Byte) : State := { s with y := v }

def State.setP (s : State) (v : Byte) : State := { s with p := v }

def State.setSp (s : State) (v : Byte) : State := { s with sp := v }

/-- The value of a register. -/
def State.reg (s : State) : Reg → Byte
  | .a => s.a
  | .x => s.x
  | .y => s.y
  | .sp => s.sp

/-- Write a register. -/
def State.setReg (s : State) (r : Reg) (v : Byte) : State :=
  match r with
  | .a => s.setA v
  | .x => s.setX v
  | .y => s.setY v
  | .sp => s.setSp v

/-- Write `v` to a register, then UpdateZN(v) (R20). -/
def State.setRegZN (s : State) (r : Reg) (v : Byte) : State := (s.setReg r v).setP (updateZN v s.p)

/-! ### Address arithmetic -/

/-- `Inc16(v, k)`: `v + k` in range; out of range `none` (refuse) or modulo 65536 (wrap) (R16). -/
def inc16 (policy : TopPolicy) (v : Addr) (k : Int) : Option Addr :=
  let n : Int := v.toNat + k
  if 0 ≤ n ∧ n.toNat ≤ 0xFFFF then some (BitVec.ofInt 16 n)
  else
    match policy with
    | .refuse => none
    | .wrap => some (BitVec.ofInt 16 n)

/-- `Inc16` under the machine's TOP_POLICY. -/
def State.inc16 (s : State) (v : Addr) (k : Int) : Option Addr := Machine.inc16 s.topPolicy v k

/-- `zext_16(b)` (00_scope.md section 6). -/
def zext16 (b : Byte) : Addr := b.setWidth 16

/-- `sext_16(b)` as an integer, -128 to 127 (00_scope.md section 6). -/
def sext16 (b : Byte) : Int := b.toInt

/-- `Read16(addr)`: low byte at `addr`, high byte at `Inc16(addr, 1)` (R43, R45). -/
def State.read16 (s : State) (addr : Addr) : Option Addr :=
  (s.inc16 addr 1).map fun addr1 => hiLo (s.read addr1) (s.read addr)

/-- `Write16(addr, v)`: low byte at `addr`, high byte at `Inc16(addr, 1)` (R44, R45). -/
def State.write16 (s : State) (addr v : Addr) : Option State :=
  (s.inc16 addr 1).map fun addr1 => (s.write addr (loByte v)).write addr1 (hiByte v)

/-! ### The stack -/

/-- `0x0100 | SP` (R25). -/
def stackAddr (sp : Byte) : Addr := Config.stackPage ||| zext16 sp

/-- `Push(v)`: write, then decrement modulo 256 (R50). -/
def State.push (s : State) (v : Byte) : State := (s.write (stackAddr s.sp) v).setSp (s.sp - 1#8)

/-- `Pop()`: increment modulo 256, then read (R51). The byte, and the state after. -/
def State.pop (s : State) : Byte × State := (s.read (stackAddr (s.sp + 1#8)), s.setSp (s.sp + 1#8))

/-- `Push16(v)`: high byte, then low byte (R52). -/
def State.push16 (s : State) (v : Addr) : State := (s.push (hiByte v)).push (loByte v)

/-- `Pop16()`: low byte, then high byte (R53). -/
def State.pop16 (s : State) : Addr × State := (hiLo s.pop.2.pop.1 s.pop.1, s.pop.2.pop.2)

/-! ### How a step ends -/

/-- The state after a step that leaves PC at `pc` and ends as `e` (R5). -/
def State.endStep (s : State) (pc : Addr) (e : StepEnd) : State := { s with pc := pc, lastStep := e }

/-- `refuse AddressWrap` (R5). -/
def refuseAddressWrap : Result := .refused .addressWrap

/-- `raise DecodeFault(opcode, pc0)`, the unknown byte and its address (R201). Nothing else happens: no state is saved,
no vector is read (R205, R208). -/
def State.raiseDecodeFault (s : State) : Result := .fault (.decodeFault (s.read s.pc) s.pc)

/-- `PC <- Inc16(pc0, len)`, outcome `Next` or `Halt`; `s` still holds `pc0` (R15, R16, R75). -/
def State.finish (s : State) (len : Nat) (e : StepEnd) : Result :=
  match s.inc16 s.pc len with
  | none => refuseAddressWrap
  | some pc => .next (s.endStep pc e)

/-- The end of an instruction that is no control transfer (R75 item 5, R76). -/
def State.advance (s : State) (len : Nat) : Result := s.finish len .next

/-- The end of a control transfer: PC is the target, no advance follows (R76). -/
def State.jump (s : State) (target : Addr) : Result := .next (s.endStep target .next)

/-- `halt` after the step-1 advance (R184). -/
def State.halt (s : State) : Result := s.finish 1 .halt

/-- Return from interrupt: P from the first popped byte, PC from the next two, as they are (R163, R209). -/
def State.returnFromInterrupt (s : State) : Result :=
  (s.pop.2.pop16.2.setP (loadP s.pop.1)).jump s.pop.2.pop16.1

/-! ### Fetch -/

/-- The instruction whose bytes stand at PC, or `none` for an illegal opcode byte (R75). The operand bytes are those at
`pc0 + 1` and `pc0 + 2`, as far as the opcode has any; whether `pc0 + 1` and `pc0 + 2` are in range is for `step`
(R15 item 1) and the operand (R45) to say. -/
def State.fetch (s : State) : Option Instr := instrOf (s.read s.pc) (s.read (s.pc + 1#16)) (s.read (s.pc + 2#16))

end Sys2Proof.Machine
end

