-- ==== Sys2Proof/Machine/Operands.lean ====
section
/-! DEFINITION. Sys2Proof/Machine/Operands.lean: the addressing-mode resolver (30_encoding.md R78 to R91) and the shapes
in which instructions use it. An operand's bytes are those of the decoded instruction (log 6), the state is the one in
which the step began, so `s.pc` is `pc0` and the resolver's `PC` is `pc0 + 1`. -/

namespace Sys2Proof.Machine

/-- The 16-bit pointer whose low byte is at `ptr` in page 0 and whose high byte is at `ptr + 1`, wrapping in page 0
(R88, R89, decision D2). -/
def State.zeroPagePointer (s : State) (ptr : Byte) : Addr :=
  hiLo (s.read (zext16 (ptr + 1#8))) (s.read (zext16 ptr))

/-- The word an indirect JMP reads at `ptr`: its high byte comes from the start of the same page when the low byte of
`ptr` is 0xFF (R87). -/
def State.indirectTarget (s : State) (ptr : Addr) : Addr :=
  hiLo (s.read (if loByte ptr = 0xFF#8 then ptr &&& 0xFF00#16 else ptr + 1#16)) (s.read ptr)

/-- `EA(mode)`: the effective address, or `none` for the tag NoneAddressing (R79 to R91). -/
def effectiveAddress (o : Operand) (s : State) : Option Addr :=
  match o with
  | .imp | .acc | .rel _ => none
  | .imm _ => some (s.pc + 1#16)
  | .zp b => some (zext16 b)
  | .zpx b => some (zext16 (b + s.x))
  | .zpy b => some (zext16 (b + s.y))
  | .abs addr => some addr
  | .abx addr => some (addr + zext16 s.x)
  | .aby addr => some (addr + zext16 s.y)
  | .ind ptr => some (s.indirectTarget ptr)
  | .inx b => some (s.zeroPagePointer (b + s.x))
  | .iny b => some (s.zeroPagePointer b + zext16 s.y)

/-- `MemRead(EA(mode))` once the address is known; for IMM it is the operand byte itself (R78, R80). -/
def dataAt (o : Operand) (s : State) (ea : Addr) : Byte :=
  match o with
  | .imm v => v
  | _ => s.read ea

/-- `Operand(mode)`: the data byte of an operand that has an address (R78). -/
def operandByte (o : Operand) (s : State) : Option Byte := (effectiveAddress o s).map (dataAt o s)

/-- Resolve the operand of `mn`, then go on with its effective address. Misuse of NoneAddressing is fatal (R90, R202).
The operand's last byte is at `Inc16(pc0, len - 1)`: for the two-byte operands this is the `Read16` of R43 and R45,
which is refused where that address has no meaning. -/
def withAddress (mn : Mnemonic) (o : Operand) (s : State) (k : Addr → Result) : Result :=
  match effectiveAddress o s with
  | none => .fault (.addressingModeMisuse o.form.tag mn)
  | some ea =>
    match s.inc16 s.pc (o.len - 1 : Nat) with
    | none => refuseAddressWrap
    | some _ => k ea

/-- Resolve the operand of `mn`, then go on with its data byte (R78). -/
def withOperand (mn : Mnemonic) (o : Operand) (s : State) (k : Byte → Result) : Result :=
  withAddress mn o s fun ea => k (dataAt o s ea)

/-- Read, modify, write: one read and one write at one address, P by `flags` of the byte read (R58, R129). -/
def modifyMemory (mn : Mnemonic) (o : Operand) (s : State) (f : Byte → Byte) (flags : Byte → Byte) : Result :=
  withAddress mn o s fun ea => ((s.write ea (f (s.read ea))).setP (flags (s.read ea))).advance o.len

end Sys2Proof.Machine
end

