-- ==== Sys2Proof/Machine/Arithmetic.lean ====
section
/-! DEFINITION. Sys2Proof/Machine/Arithmetic.lean: ADC and SBC (41_arithmetic.md R119 to R121), binary whatever P.D holds (decision D5, log 13). -/

namespace Sys2Proof.Machine

/-- ADC and SBC: `A + n + P.C` where `n` is the operand as `f` gives it (R120, R121). -/
def addToA (mn : Mnemonic) (f : Byte → Byte) (o : Operand) (s : State) : Result :=
  withOperand mn o s fun m =>
    ((s.setA (addResult s.a (f m) (flag .c s.p))).setP (addFlags s.a (f m) s.p)).advance o.len

/-- ADC (R120). -/
def adc (o : Operand) (s : State) : Result := addToA .adc id o s

/-- SBC: ADC of the one's complement of the operand (R121). -/
def sbc (o : Operand) (s : State) : Result := addToA .sbc onesComplement o s

/-! ### ADC (R120): add with carry -/

def execAdcImm (v : Byte) (s : State) : Result := adc (.imm v) s

def execAdcZp (zp : Byte) (s : State) : Result := adc (.zp zp) s

def execAdcZpx (zp : Byte) (s : State) : Result := adc (.zpx zp) s

def execAdcAbs (addr : Addr) (s : State) : Result := adc (.abs addr) s

def execAdcAbx (addr : Addr) (s : State) : Result := adc (.abx addr) s

def execAdcAby (addr : Addr) (s : State) : Result := adc (.aby addr) s

def execAdcInx (zp : Byte) (s : State) : Result := adc (.inx zp) s

def execAdcIny (zp : Byte) (s : State) : Result := adc (.iny zp) s

/-! ### SBC (R121): subtract with borrow -/

def execSbcImm (v : Byte) (s : State) : Result := sbc (.imm v) s

def execSbcZp (zp : Byte) (s : State) : Result := sbc (.zp zp) s

def execSbcZpx (zp : Byte) (s : State) : Result := sbc (.zpx zp) s

def execSbcAbs (addr : Addr) (s : State) : Result := sbc (.abs addr) s

def execSbcAbx (addr : Addr) (s : State) : Result := sbc (.abx addr) s

def execSbcAby (addr : Addr) (s : State) : Result := sbc (.aby addr) s

def execSbcInx (zp : Byte) (s : State) : Result := sbc (.inx zp) s

def execSbcIny (zp : Byte) (s : State) : Result := sbc (.iny zp) s

end Sys2Proof.Machine
end

