-- ==== Sys2Proof/Machine/Branch.lean ====
section
/-! DEFINITION. Sys2Proof/Machine/Branch.lean: the eight conditional branches (46_branch.md R150 to R158). -/

namespace Sys2Proof.Machine

/-- A branch taken when flag `f` is `value`: `Inc16(Inc16(pc0 + 1, 1), sext_16(rel))`, otherwise the normal advance;
only PC changes (R91, R150). -/
def branch (f : Flag) (value : Bool) (rel : Byte) (s : State) : Result :=
  match s.inc16 s.pc 2 with
  | none => refuseAddressWrap
  | some next =>
    if flag f s.p = value then
      match s.inc16 next (sext16 rel) with
      | none => refuseAddressWrap
      | some target => s.jump target
    else s.advance (Operand.rel rel).len

/-! ### BCC (R151): taken when P.C is 0 -/

def execBcc (rel : Byte) (s : State) : Result := branch .c false rel s

/-! ### BCS (R152): taken when P.C is 1 -/

def execBcs (rel : Byte) (s : State) : Result := branch .c true rel s

/-! ### BEQ (R153): taken when P.Z is 1 -/

def execBeq (rel : Byte) (s : State) : Result := branch .z true rel s

/-! ### BNE (R154): taken when P.Z is 0 -/

def execBne (rel : Byte) (s : State) : Result := branch .z false rel s

/-! ### BMI (R155): taken when P.N is 1 -/

def execBmi (rel : Byte) (s : State) : Result := branch .n true rel s

/-! ### BPL (R156): taken when P.N is 0 -/

def execBpl (rel : Byte) (s : State) : Result := branch .n false rel s

/-! ### BVC (R157): taken when P.V is 0 -/

def execBvc (rel : Byte) (s : State) : Result := branch .v false rel s

/-! ### BVS (R158): taken when P.V is 1 -/

def execBvs (rel : Byte) (s : State) : Result := branch .v true rel s

end Sys2Proof.Machine
end

