-- ==== Sys2Proof/Machine/Compare.lean ====
section
/-! DEFINITION. Sys2Proof/Machine/Compare.lean: CMP, CPX and CPY (44_compare.md R134 to R137). -/

namespace Sys2Proof.Machine

/-- Compare a register with memory: only C, Z and N change (R134). -/
def compare (mn : Mnemonic) (r : Reg) (o : Operand) (s : State) : Result :=
  withOperand mn o s fun m => (s.setP (compareFlags (s.reg r) m s.p)).advance o.len

/-! ### CMP (R135): compare A -/

def execCmpImm (v : Byte) (s : State) : Result := Machine.compare .cmp .a (.imm v) s

def execCmpZp (zp : Byte) (s : State) : Result := Machine.compare .cmp .a (.zp zp) s

def execCmpZpx (zp : Byte) (s : State) : Result := Machine.compare .cmp .a (.zpx zp) s

def execCmpAbs (addr : Addr) (s : State) : Result := Machine.compare .cmp .a (.abs addr) s

def execCmpAbx (addr : Addr) (s : State) : Result := Machine.compare .cmp .a (.abx addr) s

def execCmpAby (addr : Addr) (s : State) : Result := Machine.compare .cmp .a (.aby addr) s

def execCmpInx (zp : Byte) (s : State) : Result := Machine.compare .cmp .a (.inx zp) s

def execCmpIny (zp : Byte) (s : State) : Result := Machine.compare .cmp .a (.iny zp) s

/-! ### CPX (R136): compare X -/

def execCpxImm (v : Byte) (s : State) : Result := Machine.compare .cpx .x (.imm v) s

def execCpxZp (zp : Byte) (s : State) : Result := Machine.compare .cpx .x (.zp zp) s

def execCpxAbs (addr : Addr) (s : State) : Result := Machine.compare .cpx .x (.abs addr) s

/-! ### CPY (R137): compare Y -/

def execCpyImm (v : Byte) (s : State) : Result := Machine.compare .cpy .y (.imm v) s

def execCpyZp (zp : Byte) (s : State) : Result := Machine.compare .cpy .y (.zp zp) s

def execCpyAbs (addr : Addr) (s : State) : Result := Machine.compare .cpy .y (.abs addr) s

end Sys2Proof.Machine
end

