-- ==== Sys2Proof/Machine/FlagTransfer.lean ====
section
/-! DEFINITION. Sys2Proof/Machine/FlagTransfer.lean: flag instructions, register transfers, NOP and BRK (49_flag_transfer_nop_brk.md R170 to R184). -/

namespace Sys2Proof.Machine

/-- One bit of P changes and nothing else (R170 to R176). -/
def changeFlag (f : Byte → Byte) (s : State) : Result := (s.setP (f s.p)).advance Operand.imp.len

/-- `to <- from`, UpdateZN of the value copied (R177 to R181). -/
def transfer (source target : Reg) (s : State) : Result :=
  (s.setRegZN target (s.reg source)).advance Operand.imp.len

/-! ### SEC (R170): set C -/

def execSec (s : State) : Result := changeFlag (setFlag .c) s

/-! ### CLC (R171): clear C -/

def execClc (s : State) : Result := changeFlag (clearFlag .c) s

/-! ### SED (R172): set D -/

def execSed (s : State) : Result := changeFlag (setFlag .d) s

/-! ### CLD (R173): clear D -/

def execCld (s : State) : Result := changeFlag (clearFlag .d) s

/-! ### SEI (R174): set I -/

def execSei (s : State) : Result := changeFlag (setFlag .i) s

/-! ### CLI (R175): clear I -/

def execCli (s : State) : Result := changeFlag (clearFlag .i) s

/-! ### CLV (R176): clear V -/

def execClv (s : State) : Result := changeFlag (clearFlag .v) s

/-! ### TAX (R177): A to X -/

def execTax (s : State) : Result := transfer .a .x s

/-! ### TAY (R178): A to Y -/

def execTay (s : State) : Result := transfer .a .y s

/-! ### TXA (R179): X to A -/

def execTxa (s : State) : Result := transfer .x .a s

/-! ### TYA (R180): Y to A -/

def execTya (s : State) : Result := transfer .y .a s

/-! ### TSX (R181): SP to X -/

def execTsx (s : State) : Result := transfer .sp .x s

/-! ### TXS (R182): X to SP, no flag written -/

def execTxs (s : State) : Result := (s.setReg .sp (s.reg .x)).advance Operand.imp.len

/-! ### NOP (R183): only PC advances -/

def execNop (s : State) : Result := s.advance Operand.imp.len

/-! ### BRK (R184): end of run, outcome Halt; nothing is pushed, no flag is written, no vector is read (decision D8, log 10) -/

def execBrk (s : State) : Result := s.halt

end Sys2Proof.Machine
end

