-- ==== Sys2Proof/Machine/IncDec.lean ====
section
/-! DEFINITION. Sys2Proof/Machine/IncDec.lean: INC, DEC, INX, INY, DEX and DEY (45_inc_dec.md R140 to R145). -/

namespace Sys2Proof.Machine

/-- Step a memory byte by `f`, then UpdateZN of the result (R140, R141). -/
def stepMemory (mn : Mnemonic) (f : Byte → Byte) (o : Operand) (s : State) : Result :=
  modifyMemory mn o s f (fun v => updateZN (f v) s.p)

/-- Step a register by `f`, then UpdateZN of the result (R142 to R145). -/
def stepRegister (r : Reg) (f : Byte → Byte) (s : State) : Result :=
  (s.setRegZN r (f (s.reg r))).advance Operand.imp.len

/-! ### INC (R140): increment memory -/

def execIncZp (zp : Byte) (s : State) : Result := stepMemory .inc (· + 1#8) (.zp zp) s

def execIncZpx (zp : Byte) (s : State) : Result := stepMemory .inc (· + 1#8) (.zpx zp) s

def execIncAbs (addr : Addr) (s : State) : Result := stepMemory .inc (· + 1#8) (.abs addr) s

def execIncAbx (addr : Addr) (s : State) : Result := stepMemory .inc (· + 1#8) (.abx addr) s

/-! ### DEC (R141): decrement memory -/

def execDecZp (zp : Byte) (s : State) : Result := stepMemory .dec (· - 1#8) (.zp zp) s

def execDecZpx (zp : Byte) (s : State) : Result := stepMemory .dec (· - 1#8) (.zpx zp) s

def execDecAbs (addr : Addr) (s : State) : Result := stepMemory .dec (· - 1#8) (.abs addr) s

def execDecAbx (addr : Addr) (s : State) : Result := stepMemory .dec (· - 1#8) (.abx addr) s

/-! ### INX (R142): increment X -/

def execInx (s : State) : Result := stepRegister .x (· + 1#8) s

/-! ### INY (R143): increment Y -/

def execIny (s : State) : Result := stepRegister .y (· + 1#8) s

/-! ### DEX (R144): decrement X -/

def execDex (s : State) : Result := stepRegister .x (· - 1#8) s

/-! ### DEY (R145): decrement Y -/

def execDey (s : State) : Result := stepRegister .y (· - 1#8) s

end Sys2Proof.Machine
end

