-- ==== Sys2Proof/Machine/Jump.lean ====
section
/-! DEFINITION. Sys2Proof/Machine/Jump.lean: JMP, JSR, RTS and RTI (47_jump_subroutine.md R160 to R163). -/

namespace Sys2Proof.Machine

/-- `PC <- EA(mode)` (R160). -/
def jumpTo (o : Operand) (s : State) : Result := withAddress .jmp o s fun ea => s.jump ea

/-- Both operand bytes first, then `Push16(Inc16(pc0, 2))`, then the target (R161, decision D11, log 16). -/
def jumpToSubroutine (o : Operand) (s : State) : Result :=
  withAddress .jsr o s fun ea =>
    match s.inc16 s.pc 2 with
    | none => refuseAddressWrap
    | some last => (s.push16 last).jump ea

/-- `PC <- Inc16(Pop16(), 1)` (R162). -/
def returnFromSubroutine (s : State) : Result :=
  match s.inc16 s.pop16.1 1 with
  | none => refuseAddressWrap
  | some target => s.pop16.2.jump target

/-! ### JMP (R160): jump -/

def execJmpAbs (addr : Addr) (s : State) : Result := jumpTo (.abs addr) s

def execJmpInd (addr : Addr) (s : State) : Result := jumpTo (.ind addr) s

/-! ### JSR (R161): jump to subroutine -/

def execJsr (addr : Addr) (s : State) : Result := jumpToSubroutine (.abs addr) s

/-! ### RTS (R162): return from subroutine -/

def execRts (s : State) : Result := returnFromSubroutine s

/-! ### RTI (R163): return from interrupt -/

def execRti (s : State) : Result := s.returnFromInterrupt

end Sys2Proof.Machine
end

