-- ==== Sys2Proof/Machine/LoadStore.lean ====
section
/-! DEFINITION. Sys2Proof/Machine/LoadStore.lean: loads and stores (40_load_store.md R110 to R115). -/

namespace Sys2Proof.Machine

/-- A load: the register takes the operand's byte, Z and N are updated from it (R110 to R112). -/
def load (mn : Mnemonic) (r : Reg) (o : Operand) (s : State) : Result :=
  withOperand mn o s fun v => (s.setRegZN r v).advance o.len

/-- A store: the register's byte goes to the effective address, "with no flag effect" (R113 to R115). -/
def store (mn : Mnemonic) (r : Reg) (o : Operand) (s : State) : Result :=
  withAddress mn o s fun ea => (s.write ea (s.reg r)).advance o.len

/-! ### LDA (R110): load A -/

def execLdaImm (v : Byte) (s : State) : Result := load .lda .a (.imm v) s

def execLdaZp (zp : Byte) (s : State) : Result := load .lda .a (.zp zp) s

def execLdaZpx (zp : Byte) (s : State) : Result := load .lda .a (.zpx zp) s

def execLdaAbs (addr : Addr) (s : State) : Result := load .lda .a (.abs addr) s

def execLdaAbx (addr : Addr) (s : State) : Result := load .lda .a (.abx addr) s

def execLdaAby (addr : Addr) (s : State) : Result := load .lda .a (.aby addr) s

def execLdaInx (zp : Byte) (s : State) : Result := load .lda .a (.inx zp) s

def execLdaIny (zp : Byte) (s : State) : Result := load .lda .a (.iny zp) s

/-! ### LDX (R111): load X -/

def execLdxImm (v : Byte) (s : State) : Result := load .ldx .x (.imm v) s

def execLdxZp (zp : Byte) (s : State) : Result := load .ldx .x (.zp zp) s

def execLdxZpy (zp : Byte) (s : State) : Result := load .ldx .x (.zpy zp) s

def execLdxAbs (addr : Addr) (s : State) : Result := load .ldx .x (.abs addr) s

def execLdxAby (addr : Addr) (s : State) : Result := load .ldx .x (.aby addr) s

/-! ### LDY (R112): load Y -/

def execLdyImm (v : Byte) (s : State) : Result := load .ldy .y (.imm v) s

def execLdyZp (zp : Byte) (s : State) : Result := load .ldy .y (.zp zp) s

def execLdyZpx (zp : Byte) (s : State) : Result := load .ldy .y (.zpx zp) s

def execLdyAbs (addr : Addr) (s : State) : Result := load .ldy .y (.abs addr) s

def execLdyAbx (addr : Addr) (s : State) : Result := load .ldy .y (.abx addr) s

/-! ### STA (R113): store A -/

def execStaZp (zp : Byte) (s : State) : Result := store .sta .a (.zp zp) s

def execStaZpx (zp : Byte) (s : State) : Result := store .sta .a (.zpx zp) s

def execStaAbs (addr : Addr) (s : State) : Result := store .sta .a (.abs addr) s

def execStaAbx (addr : Addr) (s : State) : Result := store .sta .a (.abx addr) s

def execStaAby (addr : Addr) (s : State) : Result := store .sta .a (.aby addr) s

def execStaInx (zp : Byte) (s : State) : Result := store .sta .a (.inx zp) s

def execStaIny (zp : Byte) (s : State) : Result := store .sta .a (.iny zp) s

/-! ### STX (R114): store X -/

def execStxZp (zp : Byte) (s : State) : Result := store .stx .x (.zp zp) s

def execStxZpy (zp : Byte) (s : State) : Result := store .stx .x (.zpy zp) s

def execStxAbs (addr : Addr) (s : State) : Result := store .stx .x (.abs addr) s

/-! ### STY (R115): store Y -/

def execStyZp (zp : Byte) (s : State) : Result := store .sty .y (.zp zp) s

def execStyZpx (zp : Byte) (s : State) : Result := store .sty .y (.zpx zp) s

def execStyAbs (addr : Addr) (s : State) : Result := store .sty .y (.abs addr) s

end Sys2Proof.Machine
end

