-- ==== Sys2Proof/Machine/Logic.lean ====
section
/-! DEFINITION. Sys2Proof/Machine/Logic.lean: AND, ORA, EOR and BIT (42_logic_bit.md R125 to R128). -/

namespace Sys2Proof.Machine

/-- A bitwise combination of memory into A, then UpdateZN (R125 to R127). -/
def combineA (mn : Mnemonic) (f : Byte → Byte → Byte) (o : Operand) (s : State) : Result :=
  withOperand mn o s fun m => (s.setRegZN .a (f s.a m)).advance o.len

/-- BIT: only Z, N and V change (R128). -/
def bitTest (o : Operand) (s : State) : Result :=
  withOperand .bit o s fun m => (s.setP (bitFlags s.a m s.p)).advance o.len

/-! ### AND (R125): A and memory -/

def execAndImm (v : Byte) (s : State) : Result := combineA .and (· &&& ·) (.imm v) s

def execAndZp (zp : Byte) (s : State) : Result := combineA .and (· &&& ·) (.zp zp) s

def execAndZpx (zp : Byte) (s : State) : Result := combineA .and (· &&& ·) (.zpx zp) s

def execAndAbs (addr : Addr) (s : State) : Result := combineA .and (· &&& ·) (.abs addr) s

def execAndAbx (addr : Addr) (s : State) : Result := combineA .and (· &&& ·) (.abx addr) s

def execAndAby (addr : Addr) (s : State) : Result := combineA .and (· &&& ·) (.aby addr) s

def execAndInx (zp : Byte) (s : State) : Result := combineA .and (· &&& ·) (.inx zp) s

def execAndIny (zp : Byte) (s : State) : Result := combineA .and (· &&& ·) (.iny zp) s

/-! ### ORA (R126): A or memory -/

def execOraImm (v : Byte) (s : State) : Result := combineA .ora (· ||| ·) (.imm v) s

def execOraZp (zp : Byte) (s : State) : Result := combineA .ora (· ||| ·) (.zp zp) s

def execOraZpx (zp : Byte) (s : State) : Result := combineA .ora (· ||| ·) (.zpx zp) s

def execOraAbs (addr : Addr) (s : State) : Result := combineA .ora (· ||| ·) (.abs addr) s

def execOraAbx (addr : Addr) (s : State) : Result := combineA .ora (· ||| ·) (.abx addr) s

def execOraAby (addr : Addr) (s : State) : Result := combineA .ora (· ||| ·) (.aby addr) s

def execOraInx (zp : Byte) (s : State) : Result := combineA .ora (· ||| ·) (.inx zp) s

def execOraIny (zp : Byte) (s : State) : Result := combineA .ora (· ||| ·) (.iny zp) s

/-! ### EOR (R127): A exclusive or memory -/

def execEorImm (v : Byte) (s : State) : Result := combineA .eor (· ^^^ ·) (.imm v) s

def execEorZp (zp : Byte) (s : State) : Result := combineA .eor (· ^^^ ·) (.zp zp) s

def execEorZpx (zp : Byte) (s : State) : Result := combineA .eor (· ^^^ ·) (.zpx zp) s

def execEorAbs (addr : Addr) (s : State) : Result := combineA .eor (· ^^^ ·) (.abs addr) s

def execEorAbx (addr : Addr) (s : State) : Result := combineA .eor (· ^^^ ·) (.abx addr) s

def execEorAby (addr : Addr) (s : State) : Result := combineA .eor (· ^^^ ·) (.aby addr) s

def execEorInx (zp : Byte) (s : State) : Result := combineA .eor (· ^^^ ·) (.inx zp) s

def execEorIny (zp : Byte) (s : State) : Result := combineA .eor (· ^^^ ·) (.iny zp) s

/-! ### BIT (R128): test bits -/

def execBitZp (zp : Byte) (s : State) : Result := bitTest (.zp zp) s

def execBitAbs (addr : Addr) (s : State) : Result := bitTest (.abs addr) s

end Sys2Proof.Machine
end

