-- ==== Sys2Proof/Machine/Shift.lean ====
section
/-! DEFINITION. Sys2Proof/Machine/Shift.lean: ASL, LSR, ROL and ROR on A or on a memory byte (43_shift_rotate.md R129 to R133). The opcode selects the target (30_encoding.md R77): the ACC meanings never call the resolver. -/

namespace Sys2Proof.Machine

/-- The accumulator target (R129). -/
def shiftA (op : ShiftOp) (s : State) : Result :=
  ((s.setA (shiftResult op s.a (flag .c s.p))).setP (shiftFlags op s.a s.p)).advance Operand.acc.len

/-- The memory target (R129). -/
def shiftMemory (mn : Mnemonic) (op : ShiftOp) (o : Operand) (s : State) : Result :=
  modifyMemory mn o s (fun v => shiftResult op v (flag .c s.p)) (fun v => shiftFlags op v s.p)

/-! ### ASL (R130): arithmetic shift left -/

def execAslAcc (s : State) : Result := shiftA .asl s

def execAslZp (zp : Byte) (s : State) : Result := shiftMemory .asl .asl (.zp zp) s

def execAslZpx (zp : Byte) (s : State) : Result := shiftMemory .asl .asl (.zpx zp) s

def execAslAbs (addr : Addr) (s : State) : Result := shiftMemory .asl .asl (.abs addr) s

def execAslAbx (addr : Addr) (s : State) : Result := shiftMemory .asl .asl (.abx addr) s

/-! ### LSR (R131): logical shift right -/

def execLsrAcc (s : State) : Result := shiftA .lsr s

def execLsrZp (zp : Byte) (s : State) : Result := shiftMemory .lsr .lsr (.zp zp) s

def execLsrZpx (zp : Byte) (s : State) : Result := shiftMemory .lsr .lsr (.zpx zp) s

def execLsrAbs (addr : Addr) (s : State) : Result := shiftMemory .lsr .lsr (.abs addr) s

def execLsrAbx (addr : Addr) (s : State) : Result := shiftMemory .lsr .lsr (.abx addr) s

/-! ### ROL (R132): rotate left through carry -/

def execRolAcc (s : State) : Result := shiftA .rol s

def execRolZp (zp : Byte) (s : State) : Result := shiftMemory .rol .rol (.zp zp) s

def execRolZpx (zp : Byte) (s : State) : Result := shiftMemory .rol .rol (.zpx zp) s

def execRolAbs (addr : Addr) (s : State) : Result := shiftMemory .rol .rol (.abs addr) s

def execRolAbx (addr : Addr) (s : State) : Result := shiftMemory .rol .rol (.abx addr) s

/-! ### ROR (R133): rotate right through carry -/

def execRorAcc (s : State) : Result := shiftA .ror s

def execRorZp (zp : Byte) (s : State) : Result := shiftMemory .ror .ror (.zp zp) s

def execRorZpx (zp : Byte) (s : State) : Result := shiftMemory .ror .ror (.zpx zp) s

def execRorAbs (addr : Addr) (s : State) : Result := shiftMemory .ror .ror (.abs addr) s

def execRorAbx (addr : Addr) (s : State) : Result := shiftMemory .ror .ror (.abx addr) s

end Sys2Proof.Machine
end

