-- ==== Sys2Proof/Machine/StackOps.lean ====
section
/-! DEFINITION. Sys2Proof/Machine/StackOps.lean: PHA, PHP, PLA and PLP (48_stack_ops.md R165 to R168). -/

namespace Sys2Proof.Machine

/-- `Push(v)`, no flag written (R165, R166). -/
def pushByte (v : Byte) (s : State) : Result := (s.push v).advance Operand.imp.len

/-- `A <- Pop()`, UpdateZN(A) (R167). -/
def pullA (s : State) : Result := (s.pop.2.setRegZN .a s.pop.1).advance Operand.imp.len

/-- `LoadP(Pop())` (R168). -/
def pullP (s : State) : Result := (s.pop.2.setP (loadP s.pop.1)).advance Operand.imp.len

/-! ### PHA (R165): push A -/

def execPha (s : State) : Result := pushByte s.a s

/-! ### PHP (R166): push P -/

def execPhp (s : State) : Result := pushByte (readP s.p) s

/-! ### PLA (R167): pull A -/

def execPla (s : State) : Result := pullA s

/-! ### PLP (R168): pull P -/

def execPlp (s : State) : Result := pullP s

end Sys2Proof.Machine
end

