-- ==== Sys2Proof/Machine/Step.lean ====
section
/-! DEFINITION. Sys2Proof/Machine/Step.lean: one step (30_encoding.md R75, 70_reset_and_hazards.md R225) in the order of
60_exceptions.md R207, and the placing of an instruction where the next step fetches it. -/

namespace Sys2Proof.Machine

/-- One instruction: `Inc16(pc0, 1)`, decode, handler and final advance (R75, R207). -/
def step (s : State) : Host.Outcome State Fault Refusal :=
  match s.inc16 s.pc 1 with
  | none => refuseAddressWrap
  | some _ =>
    match s.fetch with
    | none => s.raiseDecodeFault
    | some i => exec i s

/-- `s` with the instruction whose bits are `w`, in the table's numbering, at PC, PC + 1 and PC + 2. -/
def State.withFetchWord (s : State) (nbits w : Nat) : State :=
  ((s.write s.pc (tableByte nbits w 0)).write (s.pc + 1#16) (tableByte nbits w 1)).write (s.pc + 2#16)
    (tableByte nbits w 2)

end Sys2Proof.Machine
end

