-- ==== Sys2Proof/Machine/HostOps.lean ====
section
/-! DEFINITION. Sys2Proof/Machine/HostOps.lean: the host operations between steps (70_reset_and_hazards.md R220 to R227).
`step` (R225) is in Sys2Proof/Machine/Step.lean; reading a register (10_state.md R31) is reading a field of State. -/

namespace Sys2Proof.Machine

/-- `new()`: power-on (R30, R220). SP is the spec's decision D7 (log 3). -/
def State.powerOn : State :=
  { a := 0x00#8
    x := 0x00#8
    y := 0x00#8
    p := Config.statusReset
    sp := Config.stackReset
    pc := 0x0000#16
    mem := []
    topPolicy := Config.defaultTopPolicy
    lastStep := .next }

/-- `M[0xFFFD]:M[0xFFFC]`, the value of the reset vector (R30, R223). -/
def State.vectorTarget (s : State) : Addr :=
  hiLo (s.read (Config.resetVector + 1#16)) (s.read Config.resetVector)

/-- `reset()` (R223). Memory is not changed. No step has been made since, so `lastStep` is `next` (log 2). -/
def State.resetOp (s : State) : State :=
  { s with
    a := 0x00#8
    x := 0x00#8
    y := 0x00#8
    p := Config.statusReset
    sp := Config.stackReset
    pc := s.vectorTarget
    lastStep := .next }

/-- Store bytes at `addr`, `addr + 1`, and so on. -/
def State.storeBytes (s : State) (addr : Addr) : List Byte → State
  | [] => s
  | b :: bs => (s.write addr b).storeBytes (addr + 1#16) bs

/-- `load(program)`: copy to LOAD_BASE, then write the reset vector; more than 0x7FFF bytes are refused and nothing is
changed (R221, R222, decisions D13, D14). -/
def State.load (s : State) (program : List Byte) : Result :=
  if Config.loadLimit < program.length then .refused (.loadRefused program.length)
  else
    match (s.storeBytes Config.loadBase program).write16 Config.resetVector Config.loadBase with
    | none => refuseAddressWrap
    | some t => .next t

/-- `mem_read(addr)` (R227). -/
def State.memRead (s : State) (addr : Addr) : Byte := s.read addr

/-- `mem_write(addr, v)` (R227). -/
def State.memWrite (s : State) (addr : Addr) (v : Byte) : State := s.write addr v

/-- `mem_read16(addr)`: `none` is `Refuse(AddressWrap)` (R45, R227). -/
def State.memRead16 (s : State) (addr : Addr) : Option Addr := s.read16 addr

/-- `mem_write16(addr, v)` (R45, R227). -/
def State.memWrite16 (s : State) (addr v : Addr) : Result :=
  match s.write16 addr v with
  | none => refuseAddressWrap
  | some t => .next t

/-- How `run` ends (R224), with the model's own `outOfFuel` (R233, decision D15, log 18). -/
inductive RunEnd where
  | halt (s : State)
  | fault (r : Fault)
  | refused (r : Refusal)
  | outOfFuel (s : State)
deriving DecidableEq, Repr

/-- `run()`: step until a step's outcome is not `Next`, at most `fuel` steps (R224, R233). -/
def State.run (s : State) : Nat → RunEnd
  | 0 => .outOfFuel s
  | fuel + 1 =>
    match step s with
    | .fault r => .fault r
    | .refused r => .refused r
    | .next t =>
      match t.lastStep with
      | .halt => .halt t
      | .next => t.run fuel

/-- `load_and_run(program)`: load, reset, run (R226). -/
def State.loadAndRun (s : State) (program : List Byte) (fuel : Nat) : RunEnd :=
  match s.load program with
  | .fault r => .fault r
  | .refused r => .refused r
  | .next t => t.resetOp.run fuel

end Sys2Proof.Machine
end

