-- ==== Sys2Proof/Safety.lean ====
section
/-! DEFINITION. Sys2Proof/Safety.lean: the terms in which claims about the machine are stated: the invariant of
reachable states, completion of a step, and a run that never stops. -/

namespace Sys2Proof.Machine

/-- What holds in every reachable state: memory is canonical, and bits 4 and 5 of P are 1 (10_state.md R18). -/
def State.Inv (s : State) : Prop :=
  s.mem.wf = true ∧ s.p &&& Config.statusAlwaysOne = Config.statusAlwaysOne

/-- The step has a successor state: its outcome is `Next` or `Halt` (00_scope.md R5). -/
def State.Completes (s : State) : Prop := ∃ t, step s = .next t

/-- The first `n` steps all complete. -/
def State.SafeFor (s : State) : Nat → Prop
  | 0 => True
  | n + 1 => ∃ t, step s = .next t ∧ t.SafeFor n

/-- `t` is reached from `s` by completed steps. -/
inductive Reaches (s : State) : State → Prop where
  | refl : Reaches s s
  | tail {t u : State} : Reaches s t → step t = .next u → Reaches s u

end Sys2Proof.Machine
end

