-- ==== Sys2Proof/Certificates/Slice0/Obligations.lean ====
section
/-! DEFINITION. Sys2Proof/Certificates/Slice0/Obligations.lean: the statements for the provers. In a statement about an
instruction, `pc'` is `Inc16(pc0, len)`, the address after the instruction, so the hypothesis that it exists says that
the instruction does not run off the top of memory under TOP_POLICY = refuse (10_state.md R16). An equation
`exec i s = .next { s with … }` is result, completion and frame at once: every field not named is unchanged.
`lastStep` is the model's own field (log 2). The clauses `EncodedAs` state the `Encoding` lines of the rules. -/

open Sys2Proof Sys2Proof.Machine

/-- The 105 illegal opcode bytes, as R93 lists them. -/
def illegalBytes : List Byte :=
  [0x02#8, 0x03#8, 0x04#8, 0x07#8, 0x0B#8, 0x0C#8, 0x0F#8, 0x12#8, 0x13#8, 0x14#8, 0x17#8, 0x1A#8, 0x1B#8, 0x1C#8,
    0x1F#8, 0x22#8, 0x23#8, 0x27#8, 0x2B#8, 0x2F#8, 0x32#8, 0x33#8, 0x34#8, 0x37#8, 0x3A#8, 0x3B#8] ++
  [0x3C#8, 0x3F#8, 0x42#8, 0x43#8, 0x44#8, 0x47#8, 0x4B#8, 0x4F#8, 0x52#8, 0x53#8, 0x54#8, 0x57#8, 0x5A#8, 0x5B#8,
    0x5C#8, 0x5F#8, 0x62#8, 0x63#8, 0x64#8, 0x67#8, 0x6B#8, 0x6F#8, 0x72#8, 0x73#8, 0x74#8, 0x77#8] ++
  [0x7A#8, 0x7B#8, 0x7C#8, 0x7F#8, 0x80#8, 0x82#8, 0x83#8, 0x87#8, 0x89#8, 0x8B#8, 0x8F#8, 0x92#8, 0x93#8, 0x97#8,
    0x9B#8, 0x9C#8, 0x9E#8, 0x9F#8, 0xA3#8, 0xA7#8, 0xAB#8, 0xAF#8, 0xB2#8, 0xB3#8, 0xB7#8, 0xBB#8] ++
  [0xBF#8, 0xC2#8, 0xC3#8, 0xC7#8, 0xCB#8, 0xCF#8, 0xD2#8, 0xD3#8, 0xD4#8, 0xD7#8, 0xDA#8, 0xDB#8, 0xDC#8, 0xDF#8,
    0xE2#8, 0xE3#8, 0xE7#8, 0xEB#8, 0xEF#8, 0xF2#8, 0xF3#8, 0xF4#8, 0xF7#8, 0xFA#8, 0xFB#8, 0xFC#8] ++
  [0xFF#8]

/-- The eight branches with the flag each tests and the value on which it is taken: the condition table of R150. -/
def branchTable (rel : Byte) : List (Instr × Flag × Bool) :=
  [(.bpl rel, .n, false), (.bmi rel, .n, true), (.bvc rel, .v, false), (.bvs rel, .v, true),
    (.bcc rel, .c, false), (.bcs rel, .c, true), (.bne rel, .z, false), (.beq rel, .z, true)]

/-- JMP, JSR, RTS, RTI and the branches: the mnemonics that can be control transfers (R76). -/
def transferMnemonics : List Mnemonic :=
  [.jmp, .jsr, .rts, .rti, .bpl, .bmi, .bvc, .bvs, .bcc, .bcs, .bne, .beq]

/-- R130 to R133 as arithmetic: the byte `v` and the previous carry `c` give the byte `r` and the carry `c'`. -/
def ShiftRule (mn : Mnemonic) (v : Byte) (c : Bool) (r : Byte) (c' : Bool) : Prop :=
  match mn with
  | .asl => r.toNat = 2 * v.toNat % 256 ∧ c' = decide (128 ≤ v.toNat)
  | .lsr => r.toNat = v.toNat / 2 ∧ c' = decide (v.toNat % 2 = 1)
  | .rol => r.toNat = 2 * v.toNat % 256 + c.toNat ∧ c' = decide (128 ≤ v.toNat)
  | .ror => r.toNat = v.toNat / 2 + 128 * c.toNat ∧ c' = decide (v.toNat % 2 = 1)
  | _ => False

/-- R134: the byte `reg` compared with the byte `m` takes P from `p` to `p'`. -/
def CompareRule (reg m p p' : Byte) : Prop :=
  flag .c p' = decide (m.toNat ≤ reg.toNat) ∧ flag .z p' = decide (reg = m) ∧
    (flag .n p' = true ↔ 128 ≤ ((reg.toNat : Int) - m.toNat) % 256) ∧
    ∀ k, k ≠ 0 → k ≠ 1 → k ≠ 7 → p'.getLsbD k = p.getLsbD k

/-- R20: UpdateZN of `r` takes P from `p` to `p'`. -/
def ZNRule (r p p' : Byte) : Prop :=
  flag .z p' = decide (r.toNat = 0) ∧ flag .n p' = decide (128 ≤ r.toNat) ∧
    ∀ k, k ≠ 1 → k ≠ 7 → p'.getLsbD k = p.getLsbD k

/-- `t` is `s` with one memory byte stored, the one at `ea`: it reads as `v`, every other byte as before. -/
def StoredAt (s t : State) (ea : Addr) (v : Byte) : Prop :=
  t.read ea = v ∧ ∀ b, b ≠ ea → t.read b = s.read b

/-- `s` with other values in the two flags that are storage only (R23, R24). -/
def withIAndD (s : State) (i d : Bool) : State := { s with p := putFlag .i i (putFlag .d d s.p) }

/-- The `Encoding` line of an instruction's rule: the opcodes of `mn` are these, one for each operand form, and the
decoder reads each of them so. -/
def EncodedAs (mn : Mnemonic) (encoding : List (OperandForm × Byte)) : Prop :=
  (∀ i : Instr, i.mnemonic = mn → (i.operand.form, i.opcode) ∈ encoding) ∧
    ∀ e ∈ encoding, (descriptorOf e.2).map (fun d => (d.mnemonic, d.form)) = some (mn, e.1)

/-- Push every byte of a list, the head first. -/
def pushAll (s : State) (bs : List Byte) : State := bs.foldl State.push s

/-- Pop `n` bytes: the bytes in the order popped, and the state after. -/
def popMany : Nat → State → List Byte × State
  | 0, s => ([], s)
  | n + 1, s => (s.pop.1 :: (popMany n s.pop.2).1, (popMany n s.pop.2).2)

/-- The state after `n` steps if the outcome of each is `Next`: none of them halts, faults or is refused. -/
def nextSteps : Nat → State → Option State
  | 0, s => some s
  | n + 1, s =>
    match step s with
    | .next t => if t.lastStep = .next then nextSteps n t else none
    | _ => none

/-! ### Encoding, decode, and the step -/

/-- Decoding the encoding of an instruction gives it back, whatever bytes follow (R70, R92). -/
def Obligations.DecodeOfEncodeIsTheInstruction : Prop :=
  ∀ (i : Instr) (rest : List Byte), decode (encode i ++ rest) = .ok (i, rest)

/-- What decodes is the encoding of what it decodes to: each instruction has one encoding (R70, R94). -/
def Obligations.EncodeOfDecodeIsTheBytes : Prop :=
  ∀ (bs : List Byte) (i : Instr) (rest : List Byte), decode bs = .ok (i, rest) → encode i ++ rest = bs

/-- R73: each opcode byte has one descriptor in the table (151 values) or is one of the 105 illegal bytes of R93. -/
def Obligations.OpcodeTableIsTotal : Prop :=
  (∀ b : Byte, b ∈ illegalBytes ∧ descriptorOf b = none ∨
    b ∉ illegalBytes ∧ ∃ d, descriptorOf b = some d ∧
      (opcodeTable.map OpcodeRow.descriptor).filter (fun e => e.code == b) = [d]) ∧
  opcodeTable.length = 151 ∧ illegalBytes.length = 105 ∧ illegalBytes.Nodup

/-- A few words of the opcode map, written out (R92, R95). -/
def Obligations.DecodesWordsOfTheOpcodeMap : Prop :=
  decode [0b10101001#8, 0x05#8] = .ok (.ldaImm 0x05#8, []) ∧
  decode [0b10000101#8, 0x10#8] = .ok (.staZp 0x10#8, []) ∧
  decode [0b10010001#8, 0x10#8] = .ok (.staIny 0x10#8, []) ∧
  decode [0b10101010#8] = .ok (.tax, []) ∧
  decode [0b11101000#8] = .ok (.inx, []) ∧
  decode [0b01101100#8, 0xFF#8, 0x30#8] = .ok (.jmpInd 0x30FF#16, []) ∧
  decode [0b00101010#8] = .ok (.rolAcc, []) ∧
  decode [0b11010000#8, 0xF9#8] = .ok (.bne 0xF9#8, []) ∧
  decode [0b11101011#8] = .error (.illegalOpcode 0xEB#8)

/-- A step runs the instruction that the bytes at PC decode to, and adds nothing around it (R75). The hypothesis on
`Inc16` is the step's first check (R207). -/
def Obligations.StepRunsTheDecodedInstruction : Prop :=
  ∀ (s : State) (i : Instr) (rest : List Byte), (s.inc16 s.pc 1).isSome →
    decode [s.read s.pc, s.read (s.pc + 1#16), s.read (s.pc + 2#16)] = .ok (i, rest) → step s = exec i s

/-- The instruction a step runs is encoded by the bytes at `pc0`, `pc0 + 1` and `pc0 + 2`, as many as its form has: the
operand the resolver and the branches use is the bytes after the opcode (R70, R71, R75, R79). -/
def Obligations.FetchedInstructionIsTheBytesAtPc : Prop :=
  ∀ (s : State) (i : Instr), s.fetch = some i →
    encode i = [s.read s.pc, s.read (s.pc + 1#16), s.read (s.pc + 2#16)].take i.len

/-- R201: an illegal byte raises the decode fault with that byte and its address, and nothing else does. -/
def Obligations.DecodeFaultExactlyOnIllegalBytes : Prop :=
  (∀ s : State, (s.inc16 s.pc 1).isSome → s.read s.pc ∈ illegalBytes →
    step s = .fault (.decodeFault (s.read s.pc) s.pc)) ∧
  (∀ (s : State) (opcode : Byte) (address : Addr), step s = .fault (.decodeFault opcode address) →
    opcode = s.read s.pc ∧ address = s.pc ∧ opcode ∈ illegalBytes)

/-- Asking the resolver for a NoneAddressing operand is the misuse fault (R90, R202), and no instruction and no step
reaches it: that is the spec's own inference (from R77, R90 and R92), and keeping the fault at all is the model's
choice (log 21). -/
def Obligations.AddressingModeMisuseIsUnreachable : Prop :=
  (∀ (mn : Mnemonic) (o : Operand) (s : State) (k : Addr → Result), o.form.tag = .noneAddressing →
    withAddress mn o s k = .fault (.addressingModeMisuse .noneAddressing mn)) ∧
  (∀ (i : Instr) (s : State) (f : Fault), exec i s ≠ .fault f) ∧
  (∀ (s : State) (mode : AddressingMode) (mn : Mnemonic), step s ≠ .fault (.addressingModeMisuse mode mn))

/-- Every step completes, raises the decode fault of the byte at PC, or refuses for address wrap (R5, R203, R204). -/
def Obligations.EveryStepHasOneOfTheOutcomes : Prop :=
  ∀ s : State, (∃ t, step s = .next t) ∨ step s = .fault (.decodeFault (s.read s.pc) s.pc) ∨
    step s = .refused .addressWrap

/-- Under TOP_POLICY = wrap a step at a defined opcode always completes (R4, R16). -/
def Obligations.WrapPolicyNeverRefuses : Prop :=
  ∀ s : State, s.topPolicy = .wrap → s.read s.pc ∉ illegalBytes → ∃ t, step s = .next t

/-- Under TOP_POLICY = refuse: any opcode at 0xFFFF is refused; an instruction that is no control transfer is
refused when its end leaves the range; so is a branch whose opcode is at 0xFFFE or above, taken or not; a JMP or JSR
is refused exactly there (R16, R207). -/
def Obligations.RefusePolicyAtTheTopOfMemory : Prop :=
  (∀ s : State, s.topPolicy = .refuse → s.pc = 0xFFFF#16 → step s = .refused .addressWrap) ∧
  (∀ (i : Instr) (s : State), s.topPolicy = .refuse → i.mnemonic ∉ transferMnemonics →
    0xFFFF < s.pc.toNat + i.len → exec i s = .refused .addressWrap) ∧
  (∀ (s : State) (rel : Byte) (e : Instr × Flag × Bool), e ∈ branchTable rel → s.topPolicy = .refuse →
    0xFFFE ≤ s.pc.toNat → exec e.1 s = .refused .addressWrap) ∧
  (∀ (i : Instr) (s : State), s.topPolicy = .refuse → i.mnemonic = .jmp ∨ i.mnemonic = .jsr →
    (exec i s = .refused .addressWrap ↔ 0xFFFE ≤ s.pc.toNat))

/-! ### Invariants and whole-machine rules -/

/-- The state after reset satisfies the invariant: bits 4 and 5 of P are 1 (R18, R30), and memory is in the canonical
form of the model (log 23). -/
def Obligations.ResetStateSatisfiesTheInvariant : Prop := State.reset.Inv

/-- Every completed step, from every state that satisfies the invariant, keeps it: bits 4 and 5 of P equal to 1 (R18),
and memory in the canonical form, which is the model's choice (log 23); and the field that holds the parameter
TOP_POLICY, also the model's choice (log 1), is the same. -/
def Obligations.StepKeepsTheInvariant : Prop :=
  ∀ s t : State, s.Inv → step s = .next t → t.Inv ∧ t.topPolicy = s.topPolicy

/-- R18: bits 4 and 5 of P are 1 at construction, and no instruction and no host operation makes either 0. -/
def Obligations.StatusBits4And5AreAlwaysOne : Prop :=
  State.powerOn.p &&& 0x30#8 = 0x30#8 ∧
  (∀ s : State, s.resetOp.p &&& 0x30#8 = 0x30#8) ∧
  ∀ s t : State, s.p &&& 0x30#8 = 0x30#8 →
    (∃ i, exec i s = .next t) ∨ step s = .next t ∨ (∃ program, s.load program = .next t) ∨
      (∃ b v, s.memWrite b v = t) ∨ (∃ b v, s.memWrite16 b v = .next t) → t.p &&& 0x30#8 = 0x30#8

/-- R26: TSX reads SP, TXS writes it with any value, and no instruction other than TXS, the pushes and the pops
changes it. -/
def Obligations.StackPointerChangedOnlyByTxsPushesAndPops : Prop :=
  (∀ (i : Instr) (s t : State), exec i s = .next t →
    i.mnemonic ∉ [Mnemonic.txs, .pha, .php, .pla, .plp, .jsr, .rts, .rti] → t.sp = s.sp) ∧
  (∀ (s : State) (pc' : Addr), s.inc16 s.pc 1 = some pc' →
    (∃ t, exec .txs s = .next t ∧ t.sp = s.x) ∧ (∃ t, exec .tsx s = .next t ∧ t.x = s.sp))

/-- The "written by" column of R22: an instruction not listed for a flag leaves it unchanged. -/
def Obligations.FlagsWrittenOnlyByTheListedInstructions : Prop :=
  ∀ (i : Instr) (s t : State), exec i s = .next t →
    (i.mnemonic ∉ [Mnemonic.adc, .sbc, .asl, .lsr, .rol, .ror, .cmp, .cpx, .cpy, .sec, .clc, .plp, .rti] →
      flag .c t.p = flag .c s.p) ∧
    (i.mnemonic ∉ [Mnemonic.lda, .ldx, .ldy, .adc, .sbc, .and, .ora, .eor, .asl, .lsr, .rol, .ror, .inc, .dec, .inx,
        .iny, .dex, .dey, .tax, .tay, .txa, .tya, .tsx, .pla, .cmp, .cpx, .cpy, .bit, .plp, .rti] →
      flag .z t.p = flag .z s.p ∧ flag .n t.p = flag .n s.p) ∧
    (i.mnemonic ∉ [Mnemonic.sei, .cli, .plp, .rti] → flag .i t.p = flag .i s.p) ∧
    (i.mnemonic ∉ [Mnemonic.sed, .cld, .plp, .rti] → flag .d t.p = flag .d s.p) ∧
    (i.mnemonic ∉ [Mnemonic.adc, .sbc, .bit, .clv, .plp, .rti] → flag .v t.p = flag .v s.p)

/-- The "written by" column of R10 for A, X, Y and M: an instruction not listed leaves them unchanged. -/
def Obligations.RegistersAndMemoryWrittenOnlyByTheListedInstructions : Prop :=
  ∀ (i : Instr) (s t : State), exec i s = .next t →
    (i.mnemonic ∉ [Mnemonic.lda, .adc, .sbc, .and, .ora, .eor, .txa, .tya, .pla] → i.operand ≠ .acc → t.a = s.a) ∧
    (i.mnemonic ∉ [Mnemonic.ldx, .inx, .dex, .tax, .tsx] → t.x = s.x) ∧
    (i.mnemonic ∉ [Mnemonic.ldy, .iny, .dey, .tay] → t.y = s.y) ∧
    (i.mnemonic ∉ [Mnemonic.sta, .stx, .sty, .asl, .lsr, .rol, .ror, .inc, .dec, .pha, .php, .jsr] ∨ i.operand = .acc →
      t.mem = s.mem)

/-- The flags I and D are storage only (R23, which is decision D9, log 17, and R24, which is decision D5, log 13):
for an instruction that neither writes nor pushes them, other values in them change nothing else, ADC and SBC
included. -/
def Obligations.InterruptAndDecimalFlagsHaveNoEffect : Prop :=
  ∀ (i : Instr) (s t : State) (fi fd : Bool),
    i.mnemonic ∉ [Mnemonic.php, .plp, .rti, .sei, .cli, .sed, .cld] →
    exec i s = .next t → exec i (withIAndD s fi fd) = .next (withIAndD t fi fd)

/-! ### The resolver -/

/-- IMM, ZP, ZPX and ZPY: the immediate data is the operand byte and its address is the byte after the opcode; a
zero-page address never leaves page 0, indexed or not; only LDX and STX have a ZPY form (R80, R81, R82, R83). -/
def Obligations.ZeroPageAddressesWrapInPageZero : Prop :=
  ∀ (s : State) (b : Byte),
    effectiveAddress (.imm b) s = some (s.pc + 1#16) ∧ operandByte (.imm b) s = some b ∧
    (effectiveAddress (.zp b) s).map BitVec.toNat = some b.toNat ∧
    (effectiveAddress (.zpx b) s).map BitVec.toNat = some ((b.toNat + s.x.toNat) % 256) ∧
    (effectiveAddress (.zpy b) s).map BitVec.toNat = some ((b.toNat + s.y.toNat) % 256) ∧
    ∀ i : Instr, i.operand = .zpy b → i = .ldxZpy b ∨ i = .stxZpy b

/-- ABS is the operand; ABX and ABY add the index modulo 65536 (R84, R85, R86). -/
def Obligations.AbsoluteIndexingWrapsIn16Bits : Prop :=
  ∀ (s : State) (addr : Addr),
    effectiveAddress (.abs addr) s = some addr ∧
    (effectiveAddress (.abx addr) s).map BitVec.toNat = some ((addr.toNat + s.x.toNat) % 65536) ∧
    (effectiveAddress (.aby addr) s).map BitVec.toNat = some ((addr.toNat + s.y.toNat) % 65536)

/-- IND: the target's low byte is at the pointer, its high byte at the next address, or at the start of the same
page when the pointer's low byte is 0xFF; only JMP has this form (R87). -/
def Obligations.IndirectPointerHasThePageBug : Prop :=
  ∀ (s : State) (ptr : Addr),
    (effectiveAddress (.ind ptr) s).map BitVec.toNat =
      some (256 * (s.read (BitVec.ofNat 16 (if ptr.toNat % 256 = 255 then ptr.toNat - 255 else ptr.toNat + 1))).toNat +
        (s.read ptr).toNat) ∧
    ∀ i : Instr, i.operand = .ind ptr → i = .jmpInd ptr

/-- INX: both pointer bytes are in page 0, each index wrapping independently (R88). -/
def Obligations.IndexedIndirectPointerStaysInPageZero : Prop :=
  ∀ (s : State) (b : Byte),
    (effectiveAddress (.inx b) s).map BitVec.toNat =
      some (256 * (s.read (BitVec.ofNat 16 ((b.toNat + s.x.toNat + 1) % 256))).toNat +
        (s.read (BitVec.ofNat 16 ((b.toNat + s.x.toNat) % 256))).toNat)

/-- INY: the pointer is in page 0, its high byte wrapping (decision D2, log 11), and Y is added modulo 65536
(R89). -/
def Obligations.IndirectIndexedAddsYAfterThePointer : Prop :=
  ∀ (s : State) (b : Byte),
    (effectiveAddress (.iny b) s).map BitVec.toNat =
      some ((256 * (s.read (BitVec.ofNat 16 ((b.toNat + 1) % 256))).toNat +
        (s.read (BitVec.ofNat 16 b.toNat)).toNat + s.y.toNat) % 65536)

/-! ### Loads, stores, arithmetic, logic -/

/-- LDA, LDX and LDY, every form: the register takes the operand's byte, Z and N are updated from it, nothing else
changes (R110, R111, R112). -/
def Obligations.LoadsSetTheirRegisterAndZN : Prop :=
  EncodedAs .lda [(.imm, 0xA9#8), (.zp, 0xA5#8), (.zpx, 0xB5#8), (.abs, 0xAD#8), (.abx, 0xBD#8), (.aby, 0xB9#8),
    (.inx, 0xA1#8), (.iny, 0xB1#8)] ∧
  EncodedAs .ldx [(.imm, 0xA2#8), (.zp, 0xA6#8), (.zpy, 0xB6#8), (.abs, 0xAE#8), (.aby, 0xBE#8)] ∧
  EncodedAs .ldy [(.imm, 0xA0#8), (.zp, 0xA4#8), (.zpx, 0xB4#8), (.abs, 0xAC#8), (.abx, 0xBC#8)] ∧
  ∀ (i : Instr) (s : State) (v : Byte) (pc' : Addr), operandByte i.operand s = some v →
    s.inc16 s.pc i.len = some pc' →
    (i.mnemonic = .lda →
      ∃ p', ZNRule v s.p p' ∧ exec i s = .next { s with a := v, p := p', pc := pc', lastStep := .next }) ∧
    (i.mnemonic = .ldx →
      ∃ p', ZNRule v s.p p' ∧ exec i s = .next { s with x := v, p := p', pc := pc', lastStep := .next }) ∧
    (i.mnemonic = .ldy →
      ∃ p', ZNRule v s.p p' ∧ exec i s = .next { s with y := v, p := p', pc := pc', lastStep := .next })

/-- STA, STX and STY, every form: the register's byte is stored at the effective address and at no other, no flag
and no register changes (R113, R114, R115). -/
def Obligations.StoresWriteTheEffectiveAddressOnly : Prop :=
  EncodedAs .sta [(.zp, 0x85#8), (.zpx, 0x95#8), (.abs, 0x8D#8), (.abx, 0x9D#8), (.aby, 0x99#8), (.inx, 0x81#8),
    (.iny, 0x91#8)] ∧
  EncodedAs .stx [(.zp, 0x86#8), (.zpy, 0x96#8), (.abs, 0x8E#8)] ∧
  EncodedAs .sty [(.zp, 0x84#8), (.zpx, 0x94#8), (.abs, 0x8C#8)] ∧
  ∀ (i : Instr) (s : State) (ea pc' : Addr), effectiveAddress i.operand s = some ea →
    s.inc16 s.pc i.len = some pc' →
    (i.mnemonic = .sta → ∃ t, exec i s = .next t ∧ StoredAt s t ea s.a ∧
      t = { s with mem := t.mem, pc := pc', lastStep := .next }) ∧
    (i.mnemonic = .stx → ∃ t, exec i s = .next t ∧ StoredAt s t ea s.x ∧
      t = { s with mem := t.mem, pc := pc', lastStep := .next }) ∧
    (i.mnemonic = .sty → ∃ t, exec i s = .next t ∧ StoredAt s t ea s.y ∧
      t = { s with mem := t.mem, pc := pc', lastStep := .next })

/-- ADC, every form: the sum with the carry modulo 256, C the unsigned carry, V the signed overflow, Z and N of the
result, I and D and every other field unchanged, binary whatever D holds (R120). -/
def Obligations.AdcAddsWithCarryAndSignedOverflow : Prop :=
  EncodedAs .adc [(.imm, 0x69#8), (.zp, 0x65#8), (.zpx, 0x75#8), (.abs, 0x6D#8), (.abx, 0x7D#8), (.aby, 0x79#8),
    (.inx, 0x61#8), (.iny, 0x71#8)] ∧
  ∀ (i : Instr) (s : State) (m : Byte) (pc' : Addr), i.mnemonic = .adc → operandByte i.operand s = some m →
    s.inc16 s.pc i.len = some pc' →
    ∃ r p' : Byte, exec i s = .next { s with a := r, p := p', pc := pc', lastStep := .next } ∧
      r.toNat = (s.a.toNat + m.toNat + (flag .c s.p).toNat) % 256 ∧
      flag .c p' = decide (255 < s.a.toNat + m.toNat + (flag .c s.p).toNat) ∧
      (flag .v p' = true ↔ ¬ (-128 ≤ s.a.toInt + m.toInt + (flag .c s.p).toNat ∧
        s.a.toInt + m.toInt + (flag .c s.p).toNat ≤ 127)) ∧
      flag .z p' = decide (r.toNat = 0) ∧ flag .n p' = decide (128 ≤ r.toNat) ∧
      ∀ k, k = 2 ∨ k = 3 ∨ k = 4 ∨ k = 5 → p'.getLsbD k = s.p.getLsbD k

/-- SBC, every form: the difference with the borrow modulo 256, C = no borrow, V the signed overflow, Z and N of the
result, I and D and every other field unchanged, binary whatever D holds (R121). -/
def Obligations.SbcSubtractsWithBorrowAndSignedOverflow : Prop :=
  EncodedAs .sbc [(.imm, 0xE9#8), (.zp, 0xE5#8), (.zpx, 0xF5#8), (.abs, 0xED#8), (.abx, 0xFD#8), (.aby, 0xF9#8),
    (.inx, 0xE1#8), (.iny, 0xF1#8)] ∧
  ∀ (i : Instr) (s : State) (m : Byte) (pc' : Addr), i.mnemonic = .sbc → operandByte i.operand s = some m →
    s.inc16 s.pc i.len = some pc' →
    ∃ r p' : Byte, exec i s = .next { s with a := r, p := p', pc := pc', lastStep := .next } ∧
      (r.toNat : Int) = ((s.a.toNat : Int) - m.toNat - (1 - (flag .c s.p).toNat)) % 256 ∧
      flag .c p' = decide (0 ≤ (s.a.toNat : Int) - m.toNat - (1 - (flag .c s.p).toNat)) ∧
      (flag .v p' = true ↔ ¬ (-128 ≤ s.a.toInt - m.toInt - (1 - ((flag .c s.p).toNat : Int)) ∧
        s.a.toInt - m.toInt - (1 - ((flag .c s.p).toNat : Int)) ≤ 127)) ∧
      flag .z p' = decide (r.toNat = 0) ∧ flag .n p' = decide (128 ≤ r.toNat) ∧
      ∀ k, k = 2 ∨ k = 3 ∨ k = 4 ∨ k = 5 → p'.getLsbD k = s.p.getLsbD k

/-- AND, ORA and EOR, every form: A is combined bit by bit with the operand's byte, Z and N are updated from the new
A, nothing else changes (R125, R126, R127). -/
def Obligations.LogicCombinesMemoryIntoA : Prop :=
  EncodedAs .and [(.imm, 0x29#8), (.zp, 0x25#8), (.zpx, 0x35#8), (.abs, 0x2D#8), (.abx, 0x3D#8), (.aby, 0x39#8),
    (.inx, 0x21#8), (.iny, 0x31#8)] ∧
  EncodedAs .ora [(.imm, 0x09#8), (.zp, 0x05#8), (.zpx, 0x15#8), (.abs, 0x0D#8), (.abx, 0x1D#8), (.aby, 0x19#8),
    (.inx, 0x01#8), (.iny, 0x11#8)] ∧
  EncodedAs .eor [(.imm, 0x49#8), (.zp, 0x45#8), (.zpx, 0x55#8), (.abs, 0x4D#8), (.abx, 0x5D#8), (.aby, 0x59#8),
    (.inx, 0x41#8), (.iny, 0x51#8)] ∧
  ∀ (i : Instr) (s : State) (m : Byte) (pc' : Addr), operandByte i.operand s = some m →
    s.inc16 s.pc i.len = some pc' →
    (i.mnemonic = .and → ∃ r p', exec i s = .next { s with a := r, p := p', pc := pc', lastStep := .next } ∧
      (∀ k, r.getLsbD k = (s.a.getLsbD k && m.getLsbD k)) ∧ ZNRule r s.p p') ∧
    (i.mnemonic = .ora → ∃ r p', exec i s = .next { s with a := r, p := p', pc := pc', lastStep := .next } ∧
      (∀ k, r.getLsbD k = (s.a.getLsbD k || m.getLsbD k)) ∧ ZNRule r s.p p') ∧
    (i.mnemonic = .eor → ∃ r p', exec i s = .next { s with a := r, p := p', pc := pc', lastStep := .next } ∧
      (∀ k, r.getLsbD k = (s.a.getLsbD k ^^ m.getLsbD k)) ∧ ZNRule r s.p p')

/-- BIT, both forms: Z from A and m, N and V from bits 7 and 6 of m, nothing else changes (R128). -/
def Obligations.BitTestsMemoryAgainstA : Prop :=
  EncodedAs .bit [(.zp, 0x24#8), (.abs, 0x2C#8)] ∧
  ∀ (i : Instr) (s : State) (m : Byte) (pc' : Addr), i.mnemonic = .bit → operandByte i.operand s = some m →
    s.inc16 s.pc i.len = some pc' →
    ∃ p' : Byte, exec i s = .next { s with p := p', pc := pc', lastStep := .next } ∧
      flag .z p' = decide (s.a &&& m = 0#8) ∧ flag .n p' = m.getLsbD 7 ∧ flag .v p' = m.getLsbD 6 ∧
      ∀ k, k ≠ 1 → k ≠ 6 → k ≠ 7 → p'.getLsbD k = s.p.getLsbD k

/-! ### Shifts, compares, increments -/

/-- ASL, LSR, ROL and ROR, every form: the target, A for the ACC form and else the byte at the effective address, moves
by one bit; C is the bit shifted out, Z and N are of the result; no other flag, register or byte changes (R130, R131,
R132, R133). -/
def Obligations.ShiftsMoveTheirTargetByOneBit : Prop :=
  EncodedAs .asl [(.acc, 0x0A#8), (.zp, 0x06#8), (.zpx, 0x16#8), (.abs, 0x0E#8), (.abx, 0x1E#8)] ∧
  EncodedAs .lsr [(.acc, 0x4A#8), (.zp, 0x46#8), (.zpx, 0x56#8), (.abs, 0x4E#8), (.abx, 0x5E#8)] ∧
  EncodedAs .rol [(.acc, 0x2A#8), (.zp, 0x26#8), (.zpx, 0x36#8), (.abs, 0x2E#8), (.abx, 0x3E#8)] ∧
  EncodedAs .ror [(.acc, 0x6A#8), (.zp, 0x66#8), (.zpx, 0x76#8), (.abs, 0x6E#8), (.abx, 0x7E#8)] ∧
  (∀ (i : Instr) (s : State) (pc' : Addr), i ∈ [Instr.aslAcc, .lsrAcc, .rolAcc, .rorAcc] →
    s.inc16 s.pc 1 = some pc' →
    ∃ r p' : Byte, exec i s = .next { s with a := r, p := p', pc := pc', lastStep := .next } ∧
      ShiftRule i.mnemonic s.a (flag .c s.p) r (flag .c p') ∧
      flag .z p' = decide (r.toNat = 0) ∧ flag .n p' = decide (128 ≤ r.toNat) ∧
      ∀ k, k ≠ 0 → k ≠ 1 → k ≠ 7 → p'.getLsbD k = s.p.getLsbD k) ∧
  (∀ (i : Instr) (s : State) (ea pc' : Addr), i.mnemonic ∈ [Mnemonic.asl, .lsr, .rol, .ror] →
    effectiveAddress i.operand s = some ea → s.inc16 s.pc i.len = some pc' →
    ∃ (t : State) (r : Byte), exec i s = .next t ∧ StoredAt s t ea r ∧
      ShiftRule i.mnemonic (s.read ea) (flag .c s.p) r (flag .c t.p) ∧
      flag .z t.p = decide (r.toNat = 0) ∧ flag .n t.p = decide (128 ≤ r.toNat) ∧
      (∀ k, k ≠ 0 → k ≠ 1 → k ≠ 7 → t.p.getLsbD k = s.p.getLsbD k) ∧
      t = { s with p := t.p, mem := t.mem, pc := pc', lastStep := .next })

/-- ROL A then ROR A restores A and C; apart from PC only Z and N can differ at the end (R132, R133). -/
def Obligations.RorUndoesRol : Prop :=
  ∀ (s : State) (pc1 pc2 : Addr), s.inc16 s.pc 1 = some pc1 → s.inc16 pc1 1 = some pc2 →
    ∃ t u : State, exec .rolAcc s = .next t ∧ exec .rorAcc t = .next u ∧
      (∀ k, k ≠ 1 → k ≠ 7 → u.p.getLsbD k = s.p.getLsbD k) ∧
      u = { s with p := u.p, pc := pc2, lastStep := .next }

/-- CMP, CPX and CPY, every form: C, Z and N from the comparison, nothing else changes (R134, R135, R136, R137). -/
def Obligations.ComparesSetCZNOnly : Prop :=
  EncodedAs .cmp [(.imm, 0xC9#8), (.zp, 0xC5#8), (.zpx, 0xD5#8), (.abs, 0xCD#8), (.abx, 0xDD#8), (.aby, 0xD9#8),
    (.inx, 0xC1#8), (.iny, 0xD1#8)] ∧
  EncodedAs .cpx [(.imm, 0xE0#8), (.zp, 0xE4#8), (.abs, 0xEC#8)] ∧
  EncodedAs .cpy [(.imm, 0xC0#8), (.zp, 0xC4#8), (.abs, 0xCC#8)] ∧
  ∀ (i : Instr) (s : State) (m : Byte) (pc' : Addr), operandByte i.operand s = some m →
    s.inc16 s.pc i.len = some pc' →
    (i.mnemonic = .cmp → ∃ p', exec i s = .next { s with p := p', pc := pc', lastStep := .next } ∧
      CompareRule s.a m s.p p') ∧
    (i.mnemonic = .cpx → ∃ p', exec i s = .next { s with p := p', pc := pc', lastStep := .next } ∧
      CompareRule s.x m s.p p') ∧
    (i.mnemonic = .cpy → ∃ p', exec i s = .next { s with p := p', pc := pc', lastStep := .next } ∧
      CompareRule s.y m s.p p')

/-- INC and DEC, every form: the byte at the effective address changes by one modulo 256, Z and N are updated from
it, no register, no other flag and no other byte changes (R140, R141). -/
def Obligations.IncAndDecChangeOneMemoryByte : Prop :=
  EncodedAs .inc [(.zp, 0xE6#8), (.zpx, 0xF6#8), (.abs, 0xEE#8), (.abx, 0xFE#8)] ∧
  EncodedAs .dec [(.zp, 0xC6#8), (.zpx, 0xD6#8), (.abs, 0xCE#8), (.abx, 0xDE#8)] ∧
  ∀ (i : Instr) (s : State) (ea pc' : Addr), effectiveAddress i.operand s = some ea →
    s.inc16 s.pc i.len = some pc' →
    (i.mnemonic = .inc → ∃ t r, exec i s = .next t ∧ r.toNat = ((s.read ea).toNat + 1) % 256 ∧
      StoredAt s t ea r ∧ ZNRule r s.p t.p ∧ t = { s with p := t.p, mem := t.mem, pc := pc', lastStep := .next }) ∧
    (i.mnemonic = .dec → ∃ t r, exec i s = .next t ∧ r.toNat = ((s.read ea).toNat + 255) % 256 ∧
      StoredAt s t ea r ∧ ZNRule r s.p t.p ∧ t = { s with p := t.p, mem := t.mem, pc := pc', lastStep := .next })

/-- INX, INY, DEX and DEY: the register changes by one modulo 256, Z and N are updated from it, nothing else changes
(R142, R143, R144, R145). -/
def Obligations.RegisterIncrementsAndDecrementsWrap : Prop :=
  EncodedAs .inx [(.imp, 0xE8#8)] ∧
  EncodedAs .iny [(.imp, 0xC8#8)] ∧
  EncodedAs .dex [(.imp, 0xCA#8)] ∧
  EncodedAs .dey [(.imp, 0x88#8)] ∧
  ∀ (s : State) (pc' : Addr), s.inc16 s.pc 1 = some pc' →
    (∃ r p', r.toNat = (s.x.toNat + 1) % 256 ∧ ZNRule r s.p p' ∧
      exec .inx s = .next { s with x := r, p := p', pc := pc', lastStep := .next }) ∧
    (∃ r p', r.toNat = (s.y.toNat + 1) % 256 ∧ ZNRule r s.p p' ∧
      exec .iny s = .next { s with y := r, p := p', pc := pc', lastStep := .next }) ∧
    (∃ r p', r.toNat = (s.x.toNat + 255) % 256 ∧ ZNRule r s.p p' ∧
      exec .dex s = .next { s with x := r, p := p', pc := pc', lastStep := .next }) ∧
    (∃ r p', r.toNat = (s.y.toNat + 255) % 256 ∧ ZNRule r s.p p' ∧
      exec .dey s = .next { s with y := r, p := p', pc := pc', lastStep := .next })

/-! ### Branches, jumps, subroutines -/

/-- The eight branches: not taken, PC is the address after the offset byte; taken, that address plus the signed
offset under Inc16; nothing else changes (R150, R151, R152, R153, R154, R155, R156, R157, R158). -/
def Obligations.BranchesRedirectPcOnTheirFlag : Prop :=
  EncodedAs .bpl [(.rel, 0x10#8)] ∧
  EncodedAs .bmi [(.rel, 0x30#8)] ∧
  EncodedAs .bvc [(.rel, 0x50#8)] ∧
  EncodedAs .bvs [(.rel, 0x70#8)] ∧
  EncodedAs .bcc [(.rel, 0x90#8)] ∧
  EncodedAs .bcs [(.rel, 0xB0#8)] ∧
  EncodedAs .bne [(.rel, 0xD0#8)] ∧
  EncodedAs .beq [(.rel, 0xF0#8)] ∧
  ∀ (s : State) (rel : Byte) (e : Instr × Flag × Bool) (next : Addr), e ∈ branchTable rel →
    s.inc16 s.pc 2 = some next →
    (flag e.2.1 s.p ≠ e.2.2 → exec e.1 s = .next { s with pc := next, lastStep := .next }) ∧
    (flag e.2.1 s.p = e.2.2 →
      (∀ target, s.inc16 next (if rel.toNat < 128 then (rel.toNat : Int) else rel.toNat - 256) = some target →
        exec e.1 s = .next { s with pc := target, lastStep := .next }) ∧
      (s.inc16 next (if rel.toNat < 128 then (rel.toNat : Int) else rel.toNat - 256) = none →
        exec e.1 s = .refused .addressWrap))

/-- JMP, both forms: PC is the effective address, nothing else changes; refused only where the operand's second byte
has no address (R160). -/
def Obligations.JmpSetsPcToTheEffectiveAddress : Prop :=
  EncodedAs .jmp [(.abs, 0x4C#8), (.ind, 0x6C#8)] ∧
  ∀ (i : Instr) (s : State) (ea : Addr), i.mnemonic = .jmp → effectiveAddress i.operand s = some ea →
    ((s.inc16 s.pc 2).isSome → exec i s = .next { s with pc := ea, lastStep := .next }) ∧
    (s.inc16 s.pc 2 = none → exec i s = .refused .addressWrap)

/-- JSR: the high byte of `pc0 + 2` is stored at 0x0100 | SP, the low byte one lower in the stack page, SP falls by
two modulo 256, PC is the target, no flag and no other byte changes (R161). That the target is the operand as it was
before the pushes, wherever they land, is decision D11 (log 16). -/
def Obligations.JsrPushesTheReturnAddressMinusOne : Prop :=
  EncodedAs .jsr [(.abs, 0x20#8)] ∧
  ∀ (s : State) (target last : Addr), s.inc16 s.pc 2 = some last →
    ∃ t : State, exec (.jsr target) s = .next t ∧
      t.read (stackAddr s.sp) = hiByte last ∧ t.read (stackAddr (s.sp - 1#8)) = loByte last ∧
      (∀ b, b ≠ stackAddr s.sp → b ≠ stackAddr (s.sp - 1#8) → t.read b = s.read b) ∧
      t = { s with mem := t.mem, sp := s.sp - 2#8, pc := target, lastStep := .next }

/-- RTS: PC is the popped word plus one under Inc16 (refused where that leaves the range), SP rises by two, nothing
else changes (R162). -/
def Obligations.RtsReturnsToThePoppedAddressPlusOne : Prop :=
  EncodedAs .rts [(.imp, 0x60#8)] ∧
  ∀ s : State,
    (∀ target, s.inc16 (hiLo (s.read (stackAddr (s.sp + 2#8))) (s.read (stackAddr (s.sp + 1#8)))) 1 = some target →
      exec .rts s = .next { s with sp := s.sp + 2#8, pc := target, lastStep := .next }) ∧
    (s.inc16 (hiLo (s.read (stackAddr (s.sp + 2#8))) (s.read (stackAddr (s.sp + 1#8)))) 1 = none →
      exec .rts s = .refused .addressWrap)

/-- RTI: the six flags from the first popped byte, bits 4 and 5 of P 1, PC the next two bytes as they are, SP rises
by three, nothing else changes; it is never refused (R163, R209). That bits 4 and 5 are 1 whatever the byte holds is
decision D6 (log 14). -/
def Obligations.RtiPopsStatusThenPc : Prop :=
  EncodedAs .rti [(.imp, 0x40#8)] ∧
  ∀ s : State, ∃ p' : Byte,
    exec .rti s = .next { s with
      p := p'
      sp := s.sp + 3#8
      pc := hiLo (s.read (stackAddr (s.sp + 3#8))) (s.read (stackAddr (s.sp + 2#8)))
      lastStep := .next } ∧
    (∀ f : Flag, flag f p' = flag f (s.read (stackAddr (s.sp + 1#8)))) ∧ p'.getLsbD 4 = true ∧ p'.getLsbD 5 = true

/-- JSR then RTS goes on at the instruction after the JSR, with SP as it was (R161, R162). -/
def Obligations.RtsAfterJsrReturnsBehindTheJsr : Prop :=
  ∀ (s : State) (target pc3 : Addr), s.inc16 s.pc 3 = some pc3 →
    ∃ t : State, exec (.jsr target) s = .next t ∧
      exec .rts t = .next { t with sp := s.sp, pc := pc3, lastStep := .next }

/-! ### The stack -/

/-- PHA and PHP: A or the whole byte P is stored at 0x0100 | SP and SP falls by one; no flag, no other register and no
other byte changes (R165, R166). That PHP pushes P as it is held, in every state, is the model's choice for ReadP
(decision D6, log 14): it is N V 1 1 D I Z C where bits 4 and 5 of P are 1, as they always are (R18). -/
def Obligations.PushesStoreOneByteAndDecrementSp : Prop :=
  EncodedAs .pha [(.imp, 0x48#8)] ∧
  EncodedAs .php [(.imp, 0x08#8)] ∧
  ∀ (s : State) (pc' : Addr), s.inc16 s.pc 1 = some pc' →
    (∃ t, exec .pha s = .next t ∧ StoredAt s t (stackAddr s.sp) s.a ∧
      t = { s with mem := t.mem, sp := s.sp - 1#8, pc := pc', lastStep := .next }) ∧
    (∃ t, exec .php s = .next t ∧ StoredAt s t (stackAddr s.sp) s.p ∧
      t = { s with mem := t.mem, sp := s.sp - 1#8, pc := pc', lastStep := .next })

/-- PLA: A is the byte at 0x0100 | (SP + 1), Z and N are updated from it, SP rises by one; nothing else, memory
included, changes (R167). -/
def Obligations.PlaPullsAAndUpdatesZN : Prop :=
  EncodedAs .pla [(.imp, 0x68#8)] ∧
  ∀ (s : State) (pc' : Addr), s.inc16 s.pc 1 = some pc' →
    ∃ p', ZNRule (s.read (stackAddr (s.sp + 1#8))) s.p p' ∧
      exec .pla s = .next { s with
        a := s.read (stackAddr (s.sp + 1#8))
        p := p'
        sp := s.sp + 1#8
        pc := pc'
        lastStep := .next }

/-- PLP: the six flags come from the byte at 0x0100 | (SP + 1), bits 4 and 5 of P are 1 whatever it holds (decision D6,
log 14), SP rises by one; nothing else, memory included, changes (R168). -/
def Obligations.PlpLoadsTheSixFlags : Prop :=
  EncodedAs .plp [(.imp, 0x28#8)] ∧
  ∀ (s : State) (pc' : Addr), s.inc16 s.pc 1 = some pc' →
    ∃ p' : Byte, exec .plp s = .next { s with p := p', sp := s.sp + 1#8, pc := pc', lastStep := .next } ∧
      (∀ f : Flag, flag f p' = flag f (s.read (stackAddr (s.sp + 1#8)))) ∧ p'.getLsbD 4 = true ∧ p'.getLsbD 5 = true

/-- PHP then PLP restores P and SP, and PHA then PLA restores A and SP, in a state whose P has bits 4 and 5 set
(R167, R168). -/
def Obligations.PullAfterPushRestores : Prop :=
  ∀ (s : State) (pc1 pc2 : Addr), s.p &&& 0x30#8 = 0x30#8 → s.inc16 s.pc 1 = some pc1 → s.inc16 pc1 1 = some pc2 →
    (∃ t u : State, exec .php s = .next t ∧ exec .plp t = .next u ∧
      u = { s with mem := t.mem, pc := pc2, lastStep := .next }) ∧
    (∃ t u : State, exec .pha s = .next t ∧ exec .pla t = .next u ∧ ZNRule s.a s.p u.p ∧
      u = { s with mem := t.mem, p := u.p, pc := pc2, lastStep := .next })

/-- Pop16 after Push16 gives the word back and restores SP, from every stack pointer (R52, R53). -/
def Obligations.Pop16AfterPush16GivesTheWordBack : Prop :=
  ∀ (s : State) (v : Addr), (s.push16 v).pop16 = (v, { s with mem := (s.push16 v).mem }) ∧
    ∀ b : Addr, b.toNat < 0x0100 ∨ 0x01FF < b.toNat → (s.push16 v).read b = s.read b

/-- Stack discipline: up to 256 pushes and as many pops restore the pointer and give the bytes back in reverse order,
from every stack pointer, wraparound included (R54). -/
def Obligations.PopsReversePushesUpTo256Bytes : Prop :=
  ∀ (s : State) (bs : List Byte), bs.length ≤ 256 →
    popMany bs.length (pushAll s bs) = (bs.reverse, { s with mem := (pushAll s bs).mem })

/-! ### Flags, transfers, NOP, BRK -/

/-- SEC, CLC, SED, CLD, SEI, CLI and CLV: one bit of P is set or cleared, nothing else changes (R170, R171, R172,
R173, R174, R175, R176). -/
def Obligations.FlagInstructionsChangeOneBit : Prop :=
  EncodedAs .sec [(.imp, 0x38#8)] ∧
  EncodedAs .clc [(.imp, 0x18#8)] ∧
  EncodedAs .sed [(.imp, 0xF8#8)] ∧
  EncodedAs .cld [(.imp, 0xD8#8)] ∧
  EncodedAs .sei [(.imp, 0x78#8)] ∧
  EncodedAs .cli [(.imp, 0x58#8)] ∧
  EncodedAs .clv [(.imp, 0xB8#8)] ∧
  ∀ (s : State) (pc' : Addr) (e : Instr × Nat × Bool), s.inc16 s.pc 1 = some pc' →
    e ∈ [(Instr.sec, 0, true), (.clc, 0, false), (.sed, 3, true), (.cld, 3, false), (.sei, 2, true), (.cli, 2, false),
      (.clv, 6, false)] →
    ∃ p' : Byte, exec e.1 s = .next { s with p := p', pc := pc', lastStep := .next } ∧
      ∀ k, p'.getLsbD k = if k = e.2.1 then e.2.2 else s.p.getLsbD k

/-- TAX, TAY, TXA, TYA and TSX copy the register and update Z and N from the value; TXS copies X to SP and writes no
flag; nothing else changes (R177, R178, R179, R180, R181, R182). -/
def Obligations.TransfersCopyOneRegister : Prop :=
  EncodedAs .tax [(.imp, 0xAA#8)] ∧
  EncodedAs .tay [(.imp, 0xA8#8)] ∧
  EncodedAs .txa [(.imp, 0x8A#8)] ∧
  EncodedAs .tya [(.imp, 0x98#8)] ∧
  EncodedAs .tsx [(.imp, 0xBA#8)] ∧
  EncodedAs .txs [(.imp, 0x9A#8)] ∧
  ∀ (s : State) (pc' : Addr), s.inc16 s.pc 1 = some pc' →
    (∃ p', ZNRule s.a s.p p' ∧ exec .tax s = .next { s with x := s.a, p := p', pc := pc', lastStep := .next }) ∧
    (∃ p', ZNRule s.a s.p p' ∧ exec .tay s = .next { s with y := s.a, p := p', pc := pc', lastStep := .next }) ∧
    (∃ p', ZNRule s.x s.p p' ∧ exec .txa s = .next { s with a := s.x, p := p', pc := pc', lastStep := .next }) ∧
    (∃ p', ZNRule s.y s.p p' ∧ exec .tya s = .next { s with a := s.y, p := p', pc := pc', lastStep := .next }) ∧
    (∃ p', ZNRule s.sp s.p p' ∧ exec .tsx s = .next { s with x := s.sp, p := p', pc := pc', lastStep := .next }) ∧
    exec .txs s = .next { s with sp := s.x, pc := pc', lastStep := .next }

/-- NOP changes only PC (R183). -/
def Obligations.NopOnlyAdvancesPc : Prop :=
  EncodedAs .nop [(.imp, 0xEA#8)] ∧
  ∀ (s : State) (pc' : Addr), s.inc16 s.pc 1 = some pc' → exec .nop s = .next { s with pc := pc', lastStep := .next }

/-- BRK ends the run with PC after the BRK byte and nothing else changed: nothing is pushed, no flag is written, no
vector is read (R184). The outcome `Halt` is the field `lastStep` (log 2), and no other instruction gives it. -/
def Obligations.BrkHaltsAndChangesOnlyPc : Prop :=
  EncodedAs .brk [(.imp, 0x00#8)] ∧
  (∀ (s : State) (pc' : Addr), s.inc16 s.pc 1 = some pc' →
    exec .brk s = .next { s with pc := pc', lastStep := .halt }) ∧
  (∀ (i : Instr) (s t : State), exec i s = .next t → (t.lastStep = .halt ↔ i = .brk))

/-! ### Memory and the host operations -/

/-- Read16 and Write16 are little-endian; at 0xFFFF they are refused or wrap to 0x0000 as TOP_POLICY says (R43, R44,
R45). -/
def Obligations.SixteenBitAccessesAreLittleEndian : Prop :=
  (∀ (s : State) (addr : Addr), addr ≠ 0xFFFF#16 →
    s.read16 addr = some (hiLo (s.read (addr + 1#16)) (s.read addr))) ∧
  (∀ (s : State) (addr v : Addr), addr ≠ 0xFFFF#16 →
    ∃ t, s.write16 addr v = some t ∧ t.read addr = loByte v ∧ t.read (addr + 1#16) = hiByte v ∧
      (∀ b, b ≠ addr → b ≠ addr + 1#16 → t.read b = s.read b) ∧ t = { s with mem := t.mem }) ∧
  (∀ (s : State) (v : Addr), s.topPolicy = .refuse → s.read16 0xFFFF#16 = none ∧ s.write16 0xFFFF#16 v = none) ∧
  (∀ (s : State) (v : Addr), s.topPolicy = .wrap →
    s.read16 0xFFFF#16 = some (hiLo (s.read 0x0000#16) (s.read 0xFFFF#16)) ∧
    ∃ t, s.write16 0xFFFF#16 v = some t ∧ t.read 0xFFFF#16 = loByte v ∧ t.read 0x0000#16 = hiByte v)

/-- `new` gives zeroed registers and memory, P = 0x30, SP = 0xFF (R220; SP by decision D7, log 3). -/
def Obligations.PowerOnIsZeroed : Prop :=
  State.powerOn.a = 0#8 ∧ State.powerOn.x = 0#8 ∧ State.powerOn.y = 0#8 ∧ State.powerOn.pc = 0#16 ∧
    State.powerOn.p = 0x30#8 ∧ State.powerOn.sp = 0xFF#8 ∧ ∀ b : Addr, State.powerOn.read b = 0#8

/-- `reset`: A, X and Y zero, P = 0x30, SP = 0xFF, PC from 0xFFFC and 0xFFFD, memory unchanged (R223). That `reset`
leaves `lastStep` at `next` is the model's (log 2). `State.reset` is `reset` applied to `new` (log 4). -/
def Obligations.ResetSetsRegistersAndKeepsMemory : Prop :=
  (∀ s : State, s.resetOp = { s with
    a := 0x00#8
    x := 0x00#8
    y := 0x00#8
    p := 0x30#8
    sp := 0xFF#8
    pc := hiLo (s.read 0xFFFD#16) (s.read 0xFFFC#16)
    lastStep := .next }) ∧
  State.reset = State.powerOn.resetOp

/-- `load` of up to 0x7FFF bytes: each byte at 0x8000 plus its index, then 0x00 and 0x80 at 0xFFFC and 0xFFFD, which
win where they overlap; no other byte and no register changes (R221). -/
def Obligations.LoadCopiesTheProgramThenWritesTheVector : Prop :=
  ∀ (s : State) (program : List Byte), program.length ≤ 0x7FFF →
    ∃ t, s.load program = .next t ∧ t.read 0xFFFC#16 = 0x00#8 ∧ t.read 0xFFFD#16 = 0x80#8 ∧
      (∀ (k : Nat) (v : Byte), program[k]? = some v → k ≠ 0x7FFC → k ≠ 0x7FFD →
        t.read (BitVec.ofNat 16 (0x8000 + k)) = v) ∧
      (∀ b : Addr, b ≠ 0xFFFC#16 → b ≠ 0xFFFD#16 → b.toNat < 0x8000 ∨ 0x8000 + program.length ≤ b.toNat →
        t.read b = s.read b) ∧
      t = { s with mem := t.mem }

/-- `load` of more than 0x7FFF bytes is refused (R222). -/
def Obligations.LoadRefusesLongPrograms : Prop :=
  ∀ (s : State) (program : List Byte), 0x7FFF < program.length →
    s.load program = .refused (.loadRefused program.length)

/-- After `load` and `reset` the machine is at 0x8000, and its first step runs the first instruction of the program
(R226, R229). -/
def Obligations.LoadThenResetStartsTheProgram : Prop :=
  ∀ (s : State) (i : Instr) (rest : List Byte), (encode i ++ rest).length ≤ 0x7FFC →
    ∃ t, s.load (encode i ++ rest) = .next t ∧ t.resetOp.pc = 0x8000#16 ∧ step t.resetOp = exec i t.resetOp

/-- A run is the steps up to the first one whose outcome is not `Next`, and ends as that step does (R224): it
halts where that step is a BRK that completes, it ends in the fault or the refusal of that step, and it runs out
of fuel, which is the model's (R233, decision D15, log 18), exactly where all its steps are `Next`. More fuel
changes no other ending. -/
def Obligations.RunEndsAsItsFirstStoppingStep : Prop :=
  (∀ (s t : State) (n : Nat), s.run n = .halt t ↔
    ∃ k u, k < n ∧ nextSteps k s = some u ∧ u.fetch = some .brk ∧ step u = .next t) ∧
  (∀ (s : State) (n : Nat) (r : Fault), s.run n = .fault r ↔
    ∃ k u, k < n ∧ nextSteps k s = some u ∧ step u = .fault r) ∧
  (∀ (s : State) (n : Nat) (r : Refusal), s.run n = .refused r ↔
    ∃ k u, k < n ∧ nextSteps k s = some u ∧ step u = .refused r) ∧
  (∀ (s t : State) (n : Nat), s.run n = .outOfFuel t ↔ nextSteps n s = some t) ∧
  (∀ (s : State) (n m : Nat) (e : RunEnd), s.run n = e → (∀ t, e ≠ .outOfFuel t) → n ≤ m → s.run m = e)

/-- R20: UpdateZN writes Z and N from the byte, whatever they held, and no other bit. -/
def Obligations.UpdateZNWritesZAndNOnly : Prop := ∀ r p : Byte, ZNRule r p (updateZN r p)

/-- Inc16: the sum where it is in range, whatever TOP_POLICY is; out of range, the sum modulo 65536 under `wrap` and
nothing under `refuse`; a machine's Inc16 is the one of its TOP_POLICY (R4, R16, decision D1; the field is log 1). -/
def Obligations.Inc16IsTheSumOrFollowsTopPolicy : Prop :=
  (∀ (policy : TopPolicy) (v : Addr) (k : Int), 0 ≤ v.toNat + k ∧ v.toNat + k ≤ 0xFFFF →
    ∃ t : Addr, Machine.inc16 policy v k = some t ∧ (t.toNat : Int) = v.toNat + k) ∧
  (∀ (v : Addr) (k : Int), ¬ (0 ≤ v.toNat + k ∧ v.toNat + k ≤ 0xFFFF) →
    (∃ t : Addr, Machine.inc16 .wrap v k = some t ∧ (t.toNat : Int) = (v.toNat + k) % 65536) ∧
      Machine.inc16 .refuse v k = none) ∧
  (∀ (s : State) (v : Addr) (k : Int), s.inc16 v k = Machine.inc16 s.topPolicy v k)

/-- Operand(mode) is MemRead(EA(mode)): for every operand that is not IMM, and for the operand, IMM or not, of every
instruction a step fetches (R78, R79, R80). An operand without an effective address has no such byte (R90). -/
def Obligations.OperandByteIsTheByteAtTheEffectiveAddress : Prop :=
  (∀ (o : Operand) (s : State), (∀ v, o ≠ .imm v) → operandByte o s = (effectiveAddress o s).map s.read) ∧
  (∀ (s : State) (i : Instr), s.fetch = some i →
    operandByte i.operand s = (effectiveAddress i.operand s).map s.read)
end

