-- ==== Sys2Proof/Laws/Decode.lean ====
section
/-! SUPPORT. Sys2Proof/Laws/Decode.lean: the opcode table is well-formed, and its rows and the encoder, written apart,
agree. -/

namespace Sys2Proof

/-- 151 rows, each well-formed, no code twice. -/
theorem opcodeTable_wellFormed :
    opcodeTable.length = 151 ∧ tableWellFormed (opcodeTable.map OpcodeRow.descriptor) = true := by
  decide +kernel

/-- A row makes an instruction with the row's code, mnemonic and form, and with the row's operand bytes. -/
def OpcodeRow.Agrees (r : OpcodeRow) : Prop :=
  ∀ b1 b2, (r.build b1 b2).opcode = r.descriptor.code ∧ (r.build b1 b2).mnemonic = r.descriptor.mnemonic ∧
    (r.build b1 b2).operand.form = r.descriptor.form ∧ r.descriptor.len = r.descriptor.form.len

theorem opcodeTable_agrees : ∀ r ∈ opcodeTable, r.Agrees := by
  simp only [opcodeTable, List.forall_mem_append]
  refine ⟨⟨⟨⟨⟨⟨⟨⟨⟨⟨⟨⟨⟨⟨⟨?_, ?_⟩, ?_⟩, ?_⟩, ?_⟩, ?_⟩, ?_⟩, ?_⟩, ?_⟩, ?_⟩, ?_⟩, ?_⟩, ?_⟩, ?_⟩, ?_⟩, ?_⟩ <;>
    intro r hr <;>
    simp only [opcodeRows0, opcodeRows1, opcodeRows2, opcodeRows3, opcodeRows4, opcodeRows5, opcodeRows6, opcodeRows7,
      opcodeRows8, opcodeRows9, opcodeRowsA, opcodeRowsB, opcodeRowsC, opcodeRowsD, opcodeRowsE, opcodeRowsF,
      List.mem_cons, List.not_mem_nil, or_false] at hr <;>
    rcases hr with rfl | rfl | rfl | rfl | rfl | rfl | rfl | rfl | rfl | rfl | rfl | rfl <;>
    exact fun _ _ => ⟨rfl, rfl, rfl, rfl⟩

/-- A row's instruction has as operand bytes the bytes it was built from, as many as its form has. -/
theorem opcodeTable_operandBytes : ∀ r ∈ opcodeTable, ∀ b1 b2,
    (r.build b1 b2).operand.bytes = [b1, b2].take ((r.build b1 b2).len - 1) := by
  simp only [opcodeTable, List.forall_mem_append]
  refine ⟨⟨⟨⟨⟨⟨⟨⟨⟨⟨⟨⟨⟨⟨⟨?_, ?_⟩, ?_⟩, ?_⟩, ?_⟩, ?_⟩, ?_⟩, ?_⟩, ?_⟩, ?_⟩, ?_⟩, ?_⟩, ?_⟩, ?_⟩, ?_⟩, ?_⟩ <;>
    intro r hr <;>
    simp only [opcodeRows0, opcodeRows1, opcodeRows2, opcodeRows3, opcodeRows4, opcodeRows5, opcodeRows6, opcodeRows7,
      opcodeRows8, opcodeRows9, opcodeRowsA, opcodeRowsB, opcodeRowsC, opcodeRowsD, opcodeRowsE, opcodeRowsF,
      List.mem_cons, List.not_mem_nil, or_false] at hr <;>
    rcases hr with rfl | rfl | rfl | rfl | rfl | rfl | rfl | rfl | rfl | rfl | rfl | rfl <;>
    intro b1 b2 <;>
    simp [opcodeRow, Operand.bytes, Instr.operand, Instr.len, Operand.len, Operand.form, OperandForm.len]

/-- A row found under a code is a row of the list, and the code is its own. -/
theorem findRow_some {code : Byte} {rows : List OpcodeRow} {r : OpcodeRow} (h : findRow code rows = some r) :
    r ∈ rows ∧ r.descriptor.code = code := by
  induction rows with
  | nil => cases h
  | cons q rows ih =>
    unfold findRow at h
    split at h
    · next hq =>
      cases h
      exact ⟨List.mem_cons_self, hq⟩
    · exact ⟨List.mem_cons_of_mem _ (ih h).1, (ih h).2⟩

/-- The decoder's row for an opcode byte makes instructions with that opcode byte. -/
theorem lookupOpcode_some {code : Byte} {r : OpcodeRow} (h : lookupOpcode code = some r) :
    r ∈ opcodeTable ∧ r.descriptor.code = code ∧ r.Agrees :=
  ⟨(findRow_some h).1, (findRow_some h).2, opcodeTable_agrees r (findRow_some h).1⟩

theorem instrOf_eq_some_iff {b0 b1 b2 : Byte} {i : Instr} :
    instrOf b0 b1 b2 = some i ↔ ∃ r, lookupOpcode b0 = some r ∧ r.build b1 b2 = i := by
  simp [instrOf]

/-- Every instruction's operand form is one of its mnemonic's. -/
theorem Instr.form_mem_formsOf (i : Instr) : i.operand.form ∈ formsOf i.mnemonic := by
  cases i <;> simp [Instr.operand, Instr.mnemonic, Operand.form, formsOf]

/-- Every instruction's opcode is in the table, in a row for its mnemonic and form, of its length. -/
theorem descriptorOf_opcode (i : Instr) :
    (descriptorOf i.opcode).map (fun d => (d.mnemonic, d.form, d.len)) = some (i.mnemonic, i.operand.form, i.len) := by
  cases i <;>
    simp only [Instr.opcode, Instr.mnemonic, Instr.len, Instr.operand, Operand.len, Operand.form, OperandForm.len] <;>
    decide +kernel

/-- The row the decoder finds for an instruction's opcode. -/
theorem lookupOpcode_opcode (i : Instr) :
    ∃ r, lookupOpcode i.opcode = some r ∧ r.descriptor.mnemonic = i.mnemonic ∧
      r.descriptor.form = i.operand.form ∧ r.descriptor.len = i.len := by
  have h := descriptorOf_opcode i
  cases hr : lookupOpcode i.opcode with
  | none => simp [descriptorOf, hr] at h
  | some r => exact ⟨r, rfl, by simpa [descriptorOf, hr] using h⟩

/-- An encoding has as many bytes as the instruction's form says. -/
theorem encode_length (i : Instr) : (encode i).length = i.len := by
  simp only [encode, Instr.len, List.length_cons]
  cases i.operand <;> rfl

end Sys2Proof
end

