-- ==== Sys2Proof/Laws/State.lean ====
section
/-! SUPPORT. Sys2Proof/Laws/State.lean: one lemma per field per update of State, so that no later proof unfolds a record
update. -/

namespace Sys2Proof.Machine

variable (s : State)

/-! ### setA -/

@[simp] theorem State.setA_a (v : Byte) : (s.setA v).a = v := rfl
@[simp] theorem State.setA_x (v : Byte) : (s.setA v).x = s.x := rfl
@[simp] theorem State.setA_y (v : Byte) : (s.setA v).y = s.y := rfl
@[simp] theorem State.setA_p (v : Byte) : (s.setA v).p = s.p := rfl
@[simp] theorem State.setA_sp (v : Byte) : (s.setA v).sp = s.sp := rfl
@[simp] theorem State.setA_pc (v : Byte) : (s.setA v).pc = s.pc := rfl
@[simp] theorem State.setA_mem (v : Byte) : (s.setA v).mem = s.mem := rfl
@[simp] theorem State.setA_topPolicy (v : Byte) : (s.setA v).topPolicy = s.topPolicy := rfl
@[simp] theorem State.setA_lastStep (v : Byte) : (s.setA v).lastStep = s.lastStep := rfl

/-! ### setX -/

@[simp] theorem State.setX_a (v : Byte) : (s.setX v).a = s.a := rfl
@[simp] theorem State.setX_x (v : Byte) : (s.setX v).x = v := rfl
@[simp] theorem State.setX_y (v : Byte) : (s.setX v).y = s.y := rfl
@[simp] theorem State.setX_p (v : Byte) : (s.setX v).p = s.p := rfl
@[simp] theorem State.setX_sp (v : Byte) : (s.setX v).sp = s.sp := rfl
@[simp] theorem State.setX_pc (v : Byte) : (s.setX v).pc = s.pc := rfl
@[simp] theorem State.setX_mem (v : Byte) : (s.setX v).mem = s.mem := rfl
@[simp] theorem State.setX_topPolicy (v : Byte) : (s.setX v).topPolicy = s.topPolicy := rfl
@[simp] theorem State.setX_lastStep (v : Byte) : (s.setX v).lastStep = s.lastStep := rfl

/-! ### setY -/

@[simp] theorem State.setY_a (v : Byte) : (s.setY v).a = s.a := rfl
@[simp] theorem State.setY_x (v : Byte) : (s.setY v).x = s.x := rfl
@[simp] theorem State.setY_y (v : Byte) : (s.setY v).y = v := rfl
@[simp] theorem State.setY_p (v : Byte) : (s.setY v).p = s.p := rfl
@[simp] theorem State.setY_sp (v : Byte) : (s.setY v).sp = s.sp := rfl
@[simp] theorem State.setY_pc (v : Byte) : (s.setY v).pc = s.pc := rfl
@[simp] theorem State.setY_mem (v : Byte) : (s.setY v).mem = s.mem := rfl
@[simp] theorem State.setY_topPolicy (v : Byte) : (s.setY v).topPolicy = s.topPolicy := rfl
@[simp] theorem State.setY_lastStep (v : Byte) : (s.setY v).lastStep = s.lastStep := rfl

/-! ### setP -/

@[simp] theorem State.setP_a (v : Byte) : (s.setP v).a = s.a := rfl
@[simp] theorem State.setP_x (v : Byte) : (s.setP v).x = s.x := rfl
@[simp] theorem State.setP_y (v : Byte) : (s.setP v).y = s.y := rfl
@[simp] theorem State.setP_p (v : Byte) : (s.setP v).p = v := rfl
@[simp] theorem State.setP_sp (v : Byte) : (s.setP v).sp = s.sp := rfl
@[simp] theorem State.setP_pc (v : Byte) : (s.setP v).pc = s.pc := rfl
@[simp] theorem State.setP_mem (v : Byte) : (s.setP v).mem = s.mem := rfl
@[simp] theorem State.setP_topPolicy (v : Byte) : (s.setP v).topPolicy = s.topPolicy := rfl
@[simp] theorem State.setP_lastStep (v : Byte) : (s.setP v).lastStep = s.lastStep := rfl

/-! ### setSp -/

@[simp] theorem State.setSp_a (v : Byte) : (s.setSp v).a = s.a := rfl
@[simp] theorem State.setSp_x (v : Byte) : (s.setSp v).x = s.x := rfl
@[simp] theorem State.setSp_y (v : Byte) : (s.setSp v).y = s.y := rfl
@[simp] theorem State.setSp_p (v : Byte) : (s.setSp v).p = s.p := rfl
@[simp] theorem State.setSp_sp (v : Byte) : (s.setSp v).sp = v := rfl
@[simp] theorem State.setSp_pc (v : Byte) : (s.setSp v).pc = s.pc := rfl
@[simp] theorem State.setSp_mem (v : Byte) : (s.setSp v).mem = s.mem := rfl
@[simp] theorem State.setSp_topPolicy (v : Byte) : (s.setSp v).topPolicy = s.topPolicy := rfl
@[simp] theorem State.setSp_lastStep (v : Byte) : (s.setSp v).lastStep = s.lastStep := rfl

/-! ### write -/

@[simp] theorem State.write_a (b : Addr) (v : Byte) : (s.write b v).a = s.a := rfl
@[simp] theorem State.write_x (b : Addr) (v : Byte) : (s.write b v).x = s.x := rfl
@[simp] theorem State.write_y (b : Addr) (v : Byte) : (s.write b v).y = s.y := rfl
@[simp] theorem State.write_p (b : Addr) (v : Byte) : (s.write b v).p = s.p := rfl
@[simp] theorem State.write_sp (b : Addr) (v : Byte) : (s.write b v).sp = s.sp := rfl
@[simp] theorem State.write_pc (b : Addr) (v : Byte) : (s.write b v).pc = s.pc := rfl
@[simp] theorem State.write_mem (b : Addr) (v : Byte) : (s.write b v).mem = s.mem.put b.toNat v := rfl
@[simp] theorem State.write_topPolicy (b : Addr) (v : Byte) : (s.write b v).topPolicy = s.topPolicy := rfl
@[simp] theorem State.write_lastStep (b : Addr) (v : Byte) : (s.write b v).lastStep = s.lastStep := rfl

/-! ### endStep -/

@[simp] theorem State.endStep_a (b : Addr) (e : StepEnd) : (s.endStep b e).a = s.a := rfl
@[simp] theorem State.endStep_x (b : Addr) (e : StepEnd) : (s.endStep b e).x = s.x := rfl
@[simp] theorem State.endStep_y (b : Addr) (e : StepEnd) : (s.endStep b e).y = s.y := rfl
@[simp] theorem State.endStep_p (b : Addr) (e : StepEnd) : (s.endStep b e).p = s.p := rfl
@[simp] theorem State.endStep_sp (b : Addr) (e : StepEnd) : (s.endStep b e).sp = s.sp := rfl
@[simp] theorem State.endStep_pc (b : Addr) (e : StepEnd) : (s.endStep b e).pc = b := rfl
@[simp] theorem State.endStep_mem (b : Addr) (e : StepEnd) : (s.endStep b e).mem = s.mem := rfl
@[simp] theorem State.endStep_topPolicy (b : Addr) (e : StepEnd) : (s.endStep b e).topPolicy = s.topPolicy := rfl
@[simp] theorem State.endStep_lastStep (b : Addr) (e : StepEnd) : (s.endStep b e).lastStep = e := rfl

/-! ### setReg and setRegZN -/

@[simp] theorem State.setReg_p (r : Reg) (v : Byte) : (s.setReg r v).p = s.p := by cases r <;> rfl
@[simp] theorem State.setReg_pc (r : Reg) (v : Byte) : (s.setReg r v).pc = s.pc := by cases r <;> rfl
@[simp] theorem State.setReg_mem (r : Reg) (v : Byte) : (s.setReg r v).mem = s.mem := by cases r <;> rfl
@[simp] theorem State.setReg_topPolicy (r : Reg) (v : Byte) : (s.setReg r v).topPolicy = s.topPolicy := by cases r <;> rfl
@[simp] theorem State.setReg_lastStep (r : Reg) (v : Byte) : (s.setReg r v).lastStep = s.lastStep := by cases r <;> rfl
@[simp] theorem State.setRegZN_pc (r : Reg) (v : Byte) : (s.setRegZN r v).pc = s.pc := by cases r <;> rfl
@[simp] theorem State.setRegZN_mem (r : Reg) (v : Byte) : (s.setRegZN r v).mem = s.mem := by cases r <;> rfl
@[simp] theorem State.setRegZN_topPolicy (r : Reg) (v : Byte) : (s.setRegZN r v).topPolicy = s.topPolicy := by cases r <;> rfl
@[simp] theorem State.setRegZN_lastStep (r : Reg) (v : Byte) : (s.setRegZN r v).lastStep = s.lastStep := by cases r <;> rfl
@[simp] theorem State.setRegZN_p (r : Reg) (v : Byte) : (s.setRegZN r v).p = updateZN v s.p := rfl
@[simp] theorem State.reg_setReg_same (r : Reg) (v : Byte) : (s.setReg r v).reg r = v := by cases r <;> rfl

theorem State.reg_setReg_ne (r q : Reg) (v : Byte) (h : q ≠ r) : (s.setReg r v).reg q = s.reg q := by
  cases r <;> cases q <;> first | rfl | exact absurd rfl h

@[simp] theorem State.reg_setRegZN_same (r : Reg) (v : Byte) : (s.setRegZN r v).reg r = v := by cases r <;> rfl

theorem State.reg_setRegZN_ne (r q : Reg) (v : Byte) (h : q ≠ r) : (s.setRegZN r v).reg q = s.reg q := by
  cases r <;> cases q <;> first | rfl | exact absurd rfl h

/-! ### push, pop, push16, pop16 -/

@[simp] theorem State.push_a (v : Byte) : (s.push v).a = s.a := rfl
@[simp] theorem State.push_x (v : Byte) : (s.push v).x = s.x := rfl
@[simp] theorem State.push_y (v : Byte) : (s.push v).y = s.y := rfl
@[simp] theorem State.push_p (v : Byte) : (s.push v).p = s.p := rfl
@[simp] theorem State.push_pc (v : Byte) : (s.push v).pc = s.pc := rfl
@[simp] theorem State.push_topPolicy (v : Byte) : (s.push v).topPolicy = s.topPolicy := rfl
@[simp] theorem State.push_lastStep (v : Byte) : (s.push v).lastStep = s.lastStep := rfl
@[simp] theorem State.push_sp (v : Byte) : (s.push v).sp = s.sp - 1#8 := rfl
@[simp] theorem State.push_mem (v : Byte) : (s.push v).mem = s.mem.put (stackAddr s.sp).toNat v := rfl
@[simp] theorem State.pop_a : s.pop.2.a = s.a := rfl
@[simp] theorem State.pop_x : s.pop.2.x = s.x := rfl
@[simp] theorem State.pop_y : s.pop.2.y = s.y := rfl
@[simp] theorem State.pop_p : s.pop.2.p = s.p := rfl
@[simp] theorem State.pop_pc : s.pop.2.pc = s.pc := rfl
@[simp] theorem State.pop_mem : s.pop.2.mem = s.mem := rfl
@[simp] theorem State.pop_topPolicy : s.pop.2.topPolicy = s.topPolicy := rfl
@[simp] theorem State.pop_lastStep : s.pop.2.lastStep = s.lastStep := rfl
@[simp] theorem State.pop_sp : s.pop.2.sp = s.sp + 1#8 := rfl
@[simp] theorem State.push16_a (v : Addr) : (s.push16 v).a = s.a := rfl
@[simp] theorem State.push16_x (v : Addr) : (s.push16 v).x = s.x := rfl
@[simp] theorem State.push16_y (v : Addr) : (s.push16 v).y = s.y := rfl
@[simp] theorem State.push16_p (v : Addr) : (s.push16 v).p = s.p := rfl
@[simp] theorem State.push16_pc (v : Addr) : (s.push16 v).pc = s.pc := rfl
@[simp] theorem State.push16_topPolicy (v : Addr) : (s.push16 v).topPolicy = s.topPolicy := rfl
@[simp] theorem State.push16_lastStep (v : Addr) : (s.push16 v).lastStep = s.lastStep := rfl
@[simp] theorem State.push16_sp (v : Addr) : (s.push16 v).sp = s.sp - 1#8 - 1#8 := rfl
@[simp] theorem State.pop16_a : s.pop16.2.a = s.a := rfl
@[simp] theorem State.pop16_x : s.pop16.2.x = s.x := rfl
@[simp] theorem State.pop16_y : s.pop16.2.y = s.y := rfl
@[simp] theorem State.pop16_p : s.pop16.2.p = s.p := rfl
@[simp] theorem State.pop16_pc : s.pop16.2.pc = s.pc := rfl
@[simp] theorem State.pop16_mem : s.pop16.2.mem = s.mem := rfl
@[simp] theorem State.pop16_topPolicy : s.pop16.2.topPolicy = s.topPolicy := rfl
@[simp] theorem State.pop16_lastStep : s.pop16.2.lastStep = s.lastStep := rfl
@[simp] theorem State.pop16_sp : s.pop16.2.sp = s.sp + 1#8 + 1#8 := rfl

/-! ### Reads and Inc16 look only at memory and at the policy -/

theorem State.read_of_mem {s t : State} (h : s.mem = t.mem) (b : Addr) : s.read b = t.read b := by
  simp only [State.read, h]

theorem State.inc16_of_policy {s t : State} (h : s.topPolicy = t.topPolicy) (b : Addr) (k : Int) :
    s.inc16 b k = t.inc16 b k := by
  simp only [State.inc16, h]

end Sys2Proof.Machine
end

