-- ==== Sys2Proof/Laws/Ops.lean ====
section
/-! SUPPORT. Sys2Proof/Laws/Ops.lean: for each shared operation of Machine/Ops.lean and Machine/Operands.lean, one lemma
that says everything it can answer. -/

namespace Sys2Proof.Machine

/-- Everything `Inc16` can answer. -/
theorem inc16_cases (policy : TopPolicy) (v : Addr) (k : Int) :
    (0 ≤ (v.toNat : Int) + k ∧ (v.toNat : Int) + k < 65536 ∧
      inc16 policy v k = some (BitVec.ofInt 16 (v.toNat + k))) ∨
    (¬ (0 ≤ (v.toNat : Int) + k ∧ (v.toNat : Int) + k < 65536) ∧
      (policy = .refuse ∧ inc16 policy v k = none ∨
        policy = .wrap ∧ inc16 policy v k = some (BitVec.ofInt 16 (v.toNat + k)))) := by
  by_cases h : 0 ≤ (v.toNat : Int) + k ∧ ((v.toNat : Int) + k).toNat ≤ 0xFFFF
  · exact .inl ⟨h.1, by omega, by simp only [inc16, h, and_self, if_true]⟩
  · refine .inr ⟨by omega, ?_⟩
    cases policy
    · exact .inl ⟨rfl, by simp only [inc16, h, if_false]⟩
    · exact .inr ⟨rfl, by simp only [inc16, h, if_false]⟩

/-- In range, the policy plays no part. -/
theorem inc16_of_range (policy : TopPolicy) {v : Addr} {k : Int} (h0 : 0 ≤ (v.toNat : Int) + k)
    (h1 : (v.toNat : Int) + k < 65536) : inc16 policy v k = some (BitVec.ofInt 16 (v.toNat + k)) := by
  rcases inc16_cases policy v k with h | h
  · exact h.2.2
  · exact absurd ⟨h0, h1⟩ h.1

/-- Whatever `Inc16` answers is the sum modulo 65536. -/
theorem eq_ofInt_of_inc16 {policy : TopPolicy} {v t : Addr} {k : Int} (h : inc16 policy v k = some t) :
    t = BitVec.ofInt 16 (v.toNat + k) := by
  rcases inc16_cases policy v k with h' | ⟨-, h' | h'⟩
  · exact (Option.some.inj (h'.2.2.symm.trans h)).symm
  · rw [h'.2] at h
    cases h
  · exact (Option.some.inj (h'.2.symm.trans h)).symm

/-- `Inc16` answers nothing exactly when the sum leaves the range under `refuse`. -/
theorem inc16_eq_none_iff (policy : TopPolicy) (v : Addr) (k : Int) :
    inc16 policy v k = none ↔
      policy = .refuse ∧ ¬ (0 ≤ (v.toNat : Int) + k ∧ (v.toNat : Int) + k < 65536) := by
  rcases inc16_cases policy v k with h | ⟨hr, h | h⟩
  · rw [h.2.2]
    exact ⟨fun e => (by cases e), fun e => absurd ⟨h.1, h.2.1⟩ e.2⟩
  · exact ⟨fun _ => ⟨h.1, hr⟩, fun _ => h.2⟩
  · rw [h.2, h.1]
    exact ⟨fun e => (by cases e), fun e => (by cases e.1)⟩

/-- A shorter way is in range where a longer one is. -/
theorem inc16_isSome_of_le {policy : TopPolicy} {v : Addr} {j k : Int} (hj : 0 ≤ j) (hjk : j ≤ k)
    (h : (inc16 policy v k).isSome) : (inc16 policy v j).isSome := by
  rw [Option.isSome_iff_ne_none, ne_eq, inc16_eq_none_iff] at h ⊢
  intro hn
  exact h ⟨hn.1, by omega⟩

@[simp] theorem refuseAddressWrap_ne_next (t : State) : refuseAddressWrap ≠ .next t := by
  simp [refuseAddressWrap]

@[simp] theorem refuseAddressWrap_ne_fault (f : Fault) : refuseAddressWrap ≠ .fault f := by
  simp [refuseAddressWrap]

theorem State.finish_of_some {s : State} {len : Nat} {pc : Addr} (h : s.inc16 s.pc len = some pc) (e : StepEnd) :
    s.finish len e = .next (s.endStep pc e) := by
  simp [State.finish, h]

theorem State.finish_of_none {s : State} {len : Nat} (h : s.inc16 s.pc len = none) (e : StepEnd) :
    s.finish len e = refuseAddressWrap := by
  simp [State.finish, h]

theorem State.finish_eq_next_iff {s t : State} {len : Nat} {e : StepEnd} :
    s.finish len e = .next t ↔ ∃ pc, s.inc16 s.pc len = some pc ∧ t = s.endStep pc e := by
  unfold State.finish
  split
  · next h => simp [h]
  · next pc h => simp [h, eq_comm]

theorem State.finish_ne_fault (s : State) (len : Nat) (e : StepEnd) (f : Fault) : s.finish len e ≠ .fault f := by
  unfold State.finish
  split <;> simp

theorem State.advance_eq_next_iff {s t : State} {len : Nat} :
    s.advance len = .next t ↔ ∃ pc, s.inc16 s.pc len = some pc ∧ t = s.endStep pc .next :=
  State.finish_eq_next_iff

theorem State.halt_eq_next_iff {s t : State} :
    s.halt = .next t ↔ ∃ pc, s.inc16 s.pc 1 = some pc ∧ t = s.endStep pc .halt :=
  State.finish_eq_next_iff

theorem State.jump_eq_next_iff {s t : State} {target : Addr} :
    s.jump target = .next t ↔ t = s.endStep target .next := by
  simp [State.jump, eq_comm]

theorem State.returnFromInterrupt_eq_next_iff {s t : State} :
    s.returnFromInterrupt = .next t ↔
      t = (s.pop.2.pop16.2.setP (loadP s.pop.1)).endStep s.pop.2.pop16.1 .next :=
  State.jump_eq_next_iff

/-- Which operands have an effective address: those whose tag is not NoneAddressing. -/
theorem effectiveAddress_isSome_iff (o : Operand) (s : State) :
    (effectiveAddress o s).isSome ↔ o.form.tag ≠ .noneAddressing := by
  cases o <;> simp [effectiveAddress, Operand.form, OperandForm.tag]

/-- Everything `withAddress` can answer. -/
theorem withAddress_cases (mn : Mnemonic) (o : Operand) (s : State) (k : Addr → Result) :
    (effectiveAddress o s = none ∧ withAddress mn o s k = .fault (.addressingModeMisuse o.form.tag mn)) ∨
    ∃ ea, effectiveAddress o s = some ea ∧
      (s.inc16 s.pc (o.len - 1 : Nat) = none ∧ withAddress mn o s k = refuseAddressWrap ∨
        (s.inc16 s.pc (o.len - 1 : Nat)).isSome ∧ withAddress mn o s k = k ea) := by
  cases he : effectiveAddress o s with
  | none => exact .inl ⟨rfl, by simp [withAddress, he]⟩
  | some ea =>
    refine .inr ⟨ea, rfl, ?_⟩
    cases hi : s.inc16 s.pc (o.len - 1 : Nat) with
    | none => exact .inl ⟨rfl, by simp only [withAddress, he, hi]⟩
    | some _ => exact .inr ⟨rfl, by simp only [withAddress, he, hi]⟩

theorem withAddress_eq_next_iff {mn : Mnemonic} {o : Operand} {s t : State} {k : Addr → Result} :
    withAddress mn o s k = .next t ↔
      ∃ ea, effectiveAddress o s = some ea ∧ (s.inc16 s.pc (o.len - 1 : Nat)).isSome ∧ k ea = .next t := by
  rcases withAddress_cases mn o s k with ⟨h1, h2⟩ | ⟨ea, h1, ⟨h2, h3⟩ | ⟨h2, h3⟩⟩
  · simp [h1, h2]
  · simp [h1, h2, h3]
  · simp [h1, h2, h3]

theorem withOperand_eq_next_iff {mn : Mnemonic} {o : Operand} {s t : State} {k : Byte → Result} :
    withOperand mn o s k = .next t ↔
      ∃ v, operandByte o s = some v ∧ (s.inc16 s.pc (o.len - 1 : Nat)).isSome ∧ k v = .next t := by
  simp [withOperand, withAddress_eq_next_iff, operandByte]

/-- An operand is no longer than its instruction: where the advance is in range, the operand's bytes are. -/
theorem operand_isSome_of_advance {o : Operand} {s : State} {pc : Addr} (h : s.inc16 s.pc o.len = some pc) :
    (s.inc16 s.pc (o.len - 1 : Nat)).isSome := by
  refine inc16_isSome_of_le (policy := s.topPolicy) (by omega) (k := o.len) (by omega) ?_
  rw [show Machine.inc16 s.topPolicy s.pc o.len = some pc from h]
  rfl

/-- An instruction that resolves its operand, changes the state by `f`, and advances. -/
theorem withAddress_advance_iff {mn : Mnemonic} {o : Operand} {s t : State} {f : Addr → State}
    (hpc : ∀ ea, (f ea).pc = s.pc) (hp : ∀ ea, (f ea).topPolicy = s.topPolicy) :
    withAddress mn o s (fun ea => (f ea).advance o.len) = .next t ↔
      ∃ ea, effectiveAddress o s = some ea ∧
        ∃ pc, s.inc16 s.pc o.len = some pc ∧ t = (f ea).endStep pc .next := by
  simp only [withAddress_eq_next_iff, State.advance_eq_next_iff, hpc, State.inc16_of_policy (hp _)]
  constructor
  · rintro ⟨ea, he, -, h⟩
    exact ⟨ea, he, h⟩
  · rintro ⟨ea, he, pc, hpc', h⟩
    exact ⟨ea, he, operand_isSome_of_advance hpc', pc, hpc', h⟩

/-- An instruction that reads its operand, changes the state by `f`, and advances. -/
theorem withOperand_advance_iff {mn : Mnemonic} {o : Operand} {s t : State} {f : Byte → State}
    (hpc : ∀ v, (f v).pc = s.pc) (hp : ∀ v, (f v).topPolicy = s.topPolicy) :
    withOperand mn o s (fun v => (f v).advance o.len) = .next t ↔
      ∃ v, operandByte o s = some v ∧ ∃ pc, s.inc16 s.pc o.len = some pc ∧ t = (f v).endStep pc .next := by
  unfold withOperand
  rw [withAddress_advance_iff (f := fun ea => f (dataAt o s ea)) (fun _ => hpc _) (fun _ => hp _)]
  simp [operandByte]

theorem modifyMemory_eq_next_iff {mn : Mnemonic} {o : Operand} {s t : State} {f g : Byte → Byte} :
    modifyMemory mn o s f g = .next t ↔
      ∃ ea, effectiveAddress o s = some ea ∧ ∃ pc, s.inc16 s.pc o.len = some pc ∧
        t = ((s.write ea (f (s.read ea))).setP (g (s.read ea))).endStep pc .next :=
  withAddress_advance_iff (fun _ => rfl) (fun _ => rfl)

end Sys2Proof.Machine
end

