-- ==== Sys2Proof/Laws/Exec.lean ====
section
/-! SUPPORT. Sys2Proof/Laws/Exec.lean: the 151 arms of `exec` are 56 meanings applied to an operand, and for each shared
meaning the inversion lemma that says everything it can answer. -/

namespace Sys2Proof.Machine

/-- The meaning of a mnemonic for an operand. -/
def meaning (mn : Mnemonic) (o : Operand) (s : State) : Result :=
  match mn with
  | .lda => load .lda .a o s
  | .ldx => load .ldx .x o s
  | .ldy => load .ldy .y o s
  | .sta => store .sta .a o s
  | .stx => store .stx .x o s
  | .sty => store .sty .y o s
  | .adc => adc o s
  | .sbc => sbc o s
  | .and => combineA .and (· &&& ·) o s
  | .ora => combineA .ora (· ||| ·) o s
  | .eor => combineA .eor (· ^^^ ·) o s
  | .bit => bitTest o s
  | .asl => if o = .acc then shiftA .asl s else shiftMemory .asl .asl o s
  | .lsr => if o = .acc then shiftA .lsr s else shiftMemory .lsr .lsr o s
  | .rol => if o = .acc then shiftA .rol s else shiftMemory .rol .rol o s
  | .ror => if o = .acc then shiftA .ror s else shiftMemory .ror .ror o s
  | .cmp => Machine.compare .cmp .a o s
  | .cpx => Machine.compare .cpx .x o s
  | .cpy => Machine.compare .cpy .y o s
  | .inc => stepMemory .inc (· + 1#8) o s
  | .dec => stepMemory .dec (· - 1#8) o s
  | .inx => stepRegister .x (· + 1#8) s
  | .iny => stepRegister .y (· + 1#8) s
  | .dex => stepRegister .x (· - 1#8) s
  | .dey => stepRegister .y (· - 1#8) s
  | .bcc => branch .c false (relOf o) s
  | .bcs => branch .c true (relOf o) s
  | .beq => branch .z true (relOf o) s
  | .bne => branch .z false (relOf o) s
  | .bmi => branch .n true (relOf o) s
  | .bpl => branch .n false (relOf o) s
  | .bvc => branch .v false (relOf o) s
  | .bvs => branch .v true (relOf o) s
  | .jmp => jumpTo o s
  | .jsr => jumpToSubroutine o s
  | .rts => returnFromSubroutine s
  | .rti => s.returnFromInterrupt
  | .pha => pushByte s.a s
  | .php => pushByte (readP s.p) s
  | .pla => pullA s
  | .plp => pullP s
  | .sec => changeFlag (setFlag .c) s
  | .clc => changeFlag (clearFlag .c) s
  | .sed => changeFlag (setFlag .d) s
  | .cld => changeFlag (clearFlag .d) s
  | .sei => changeFlag (setFlag .i) s
  | .cli => changeFlag (clearFlag .i) s
  | .clv => changeFlag (clearFlag .v) s
  | .tax => transfer .a .x s
  | .tay => transfer .a .y s
  | .txa => transfer .x .a s
  | .tya => transfer .y .a s
  | .tsx => transfer .sp .x s
  | .txs => (s.setReg .sp (s.reg .x)).advance Operand.imp.len
  | .nop => s.advance Operand.imp.len
  | .brk => s.halt
where
  /-- The displacement of a branch operand. -/
  relOf : Operand → Byte
    | .rel rel => rel
    | _ => 0#8

/-- Each arm of `exec` is its mnemonic's meaning for its operand. -/
theorem exec_eq_meaning (i : Instr) (s : State) : exec i s = meaning i.mnemonic i.operand s := by
  cases i <;> rfl

theorem load_eq_next_iff {mn : Mnemonic} {r : Reg} {o : Operand} {s t : State} :
    load mn r o s = .next t ↔
      ∃ v, operandByte o s = some v ∧ ∃ pc, s.inc16 s.pc o.len = some pc ∧ t = (s.setRegZN r v).endStep pc .next :=
  withOperand_advance_iff (fun _ => State.setRegZN_pc s r _) (fun _ => State.setRegZN_topPolicy s r _)

theorem store_eq_next_iff {mn : Mnemonic} {r : Reg} {o : Operand} {s t : State} :
    store mn r o s = .next t ↔
      ∃ ea, effectiveAddress o s = some ea ∧
        ∃ pc, s.inc16 s.pc o.len = some pc ∧ t = (s.write ea (s.reg r)).endStep pc .next :=
  withAddress_advance_iff (fun _ => rfl) (fun _ => rfl)

theorem addToA_eq_next_iff {mn : Mnemonic} {f : Byte → Byte} {o : Operand} {s t : State} :
    addToA mn f o s = .next t ↔
      ∃ m, operandByte o s = some m ∧ ∃ pc, s.inc16 s.pc o.len = some pc ∧
        t = ((s.setA (addResult s.a (f m) (flag .c s.p))).setP (addFlags s.a (f m) s.p)).endStep pc .next :=
  withOperand_advance_iff (fun _ => rfl) (fun _ => rfl)

theorem combineA_eq_next_iff {mn : Mnemonic} {f : Byte → Byte → Byte} {o : Operand} {s t : State} :
    combineA mn f o s = .next t ↔
      ∃ m, operandByte o s = some m ∧ ∃ pc, s.inc16 s.pc o.len = some pc ∧
        t = (s.setRegZN .a (f s.a m)).endStep pc .next :=
  withOperand_advance_iff (fun _ => rfl) (fun _ => rfl)

theorem bitTest_eq_next_iff {o : Operand} {s t : State} :
    bitTest o s = .next t ↔
      ∃ m, operandByte o s = some m ∧ ∃ pc, s.inc16 s.pc o.len = some pc ∧
        t = (s.setP (bitFlags s.a m s.p)).endStep pc .next :=
  withOperand_advance_iff (fun _ => rfl) (fun _ => rfl)

theorem compare_eq_next_iff {mn : Mnemonic} {r : Reg} {o : Operand} {s t : State} :
    Machine.compare mn r o s = .next t ↔
      ∃ m, operandByte o s = some m ∧ ∃ pc, s.inc16 s.pc o.len = some pc ∧
        t = (s.setP (compareFlags (s.reg r) m s.p)).endStep pc .next :=
  withOperand_advance_iff (fun _ => rfl) (fun _ => rfl)

theorem shiftA_eq_next_iff {op : ShiftOp} {s t : State} :
    shiftA op s = .next t ↔
      ∃ pc, s.inc16 s.pc 1 = some pc ∧
        t = ((s.setA (shiftResult op s.a (flag .c s.p))).setP (shiftFlags op s.a s.p)).endStep pc .next :=
  State.advance_eq_next_iff

theorem shiftMemory_eq_next_iff {mn : Mnemonic} {op : ShiftOp} {o : Operand} {s t : State} :
    shiftMemory mn op o s = .next t ↔
      ∃ ea, effectiveAddress o s = some ea ∧ ∃ pc, s.inc16 s.pc o.len = some pc ∧
        t = ((s.write ea (shiftResult op (s.read ea) (flag .c s.p))).setP (shiftFlags op (s.read ea) s.p)).endStep pc
          .next :=
  modifyMemory_eq_next_iff (f := fun v => shiftResult op v (flag .c s.p)) (g := fun v => shiftFlags op v s.p)

theorem stepMemory_eq_next_iff {mn : Mnemonic} {f : Byte → Byte} {o : Operand} {s t : State} :
    stepMemory mn f o s = .next t ↔
      ∃ ea, effectiveAddress o s = some ea ∧ ∃ pc, s.inc16 s.pc o.len = some pc ∧
        t = ((s.write ea (f (s.read ea))).setP (updateZN (f (s.read ea)) s.p)).endStep pc .next :=
  modifyMemory_eq_next_iff (g := fun v => updateZN (f v) s.p)

theorem stepRegister_eq_next_iff {r : Reg} {f : Byte → Byte} {s t : State} :
    stepRegister r f s = .next t ↔
      ∃ pc, s.inc16 s.pc 1 = some pc ∧ t = (s.setRegZN r (f (s.reg r))).endStep pc .next := by
  unfold stepRegister
  rw [State.advance_eq_next_iff]
  simp [State.inc16, Operand.len, Operand.form, OperandForm.len]

theorem transfer_eq_next_iff {r q : Reg} {s t : State} :
    transfer r q s = .next t ↔
      ∃ pc, s.inc16 s.pc 1 = some pc ∧ t = (s.setRegZN q (s.reg r)).endStep pc .next := by
  unfold transfer
  rw [State.advance_eq_next_iff]
  simp [State.inc16, Operand.len, Operand.form, OperandForm.len]

theorem changeFlag_eq_next_iff {f : Byte → Byte} {s t : State} :
    changeFlag f s = .next t ↔
      ∃ pc, s.inc16 s.pc 1 = some pc ∧ t = (s.setP (f s.p)).endStep pc .next :=
  State.advance_eq_next_iff

theorem pushByte_eq_next_iff {v : Byte} {s t : State} :
    pushByte v s = .next t ↔ ∃ pc, s.inc16 s.pc 1 = some pc ∧ t = (s.push v).endStep pc .next :=
  State.advance_eq_next_iff

theorem pullA_eq_next_iff {s t : State} :
    pullA s = .next t ↔ ∃ pc, s.inc16 s.pc 1 = some pc ∧ t = (s.pop.2.setRegZN .a s.pop.1).endStep pc .next :=
  State.advance_eq_next_iff

theorem pullP_eq_next_iff {s t : State} :
    pullP s = .next t ↔ ∃ pc, s.inc16 s.pc 1 = some pc ∧ t = (s.pop.2.setP (loadP s.pop.1)).endStep pc .next :=
  State.advance_eq_next_iff

theorem branch_eq_next_iff {f : Flag} {value : Bool} {rel : Byte} {s t : State} :
    branch f value rel s = .next t ↔
      ∃ next, s.inc16 s.pc 2 = some next ∧
        (flag f s.p ≠ value ∧ t = s.endStep next .next ∨
          flag f s.p = value ∧ ∃ target, s.inc16 next (sext16 rel) = some target ∧ t = s.endStep target .next) := by
  unfold branch
  cases hn : s.inc16 s.pc 2 with
  | none => simp
  | some next =>
    by_cases hf : flag f s.p = value
    · cases ht : s.inc16 next (sext16 rel) with
      | none => simp [hf, ht]
      | some target => simp [hf, ht, State.jump_eq_next_iff]
    · have hadv : s.advance (Operand.rel rel).len = .next (s.endStep next .next) :=
        State.advance_eq_next_iff.2 ⟨next, hn, rfl⟩
      simp [hf, hadv, eq_comm]

theorem jumpTo_eq_next_iff {o : Operand} {s t : State} :
    jumpTo o s = .next t ↔
      ∃ ea, effectiveAddress o s = some ea ∧ (s.inc16 s.pc (o.len - 1 : Nat)).isSome ∧ t = s.endStep ea .next := by
  unfold jumpTo
  simp only [withAddress_eq_next_iff, State.jump_eq_next_iff]

theorem jumpToSubroutine_eq_next_iff {target : Addr} {s t : State} :
    jumpToSubroutine (.abs target) s = .next t ↔
      ∃ last, s.inc16 s.pc 2 = some last ∧ t = (s.push16 last).endStep target .next := by
  unfold jumpToSubroutine
  rw [withAddress_eq_next_iff]
  simp only [effectiveAddress, Option.some.injEq, exists_eq_left']
  change (s.inc16 s.pc 2).isSome ∧ _ ↔ _
  cases hl : s.inc16 s.pc 2 with
  | none => simp
  | some last => simp [State.jump_eq_next_iff]

theorem returnFromSubroutine_eq_next_iff {s t : State} :
    returnFromSubroutine s = .next t ↔
      ∃ target, s.inc16 s.pop16.1 1 = some target ∧ t = s.pop16.2.endStep target .next := by
  unfold returnFromSubroutine
  cases ht : s.inc16 s.pop16.1 1 with
  | none => simp
  | some target => simp [State.jump_eq_next_iff]

end Sys2Proof.Machine
end

