-- ==== Sys2Proof/Laws/Effect.lean ====
section
/-! SUPPORT. Sys2Proof/Laws/Effect.lean: everything a completed instruction can do to the state before its PC is
written, mnemonic by mnemonic. It is for statements of what does not change: where only the place of a change matters,
the value or the address is left open, and the exact effects are the `_eq_next_iff` lemmas of Laws/Exec.lean. -/

namespace Sys2Proof.Machine

/-- `Effect mn o s u`: the mnemonic `mn` with the operand `o` can take `s` to `u`, PC and `lastStep` apart. -/
inductive Effect : Mnemonic → Operand → State → State → Prop where
  | lda {o s} v : Effect .lda o s (s.setRegZN .a v)
  | ldx {o s} v : Effect .ldx o s (s.setRegZN .x v)
  | ldy {o s} v : Effect .ldy o s (s.setRegZN .y v)
  | sta {o s} b : Effect .sta o s (s.write b s.a)
  | stx {o s} b : Effect .stx o s (s.write b s.x)
  | sty {o s} b : Effect .sty o s (s.write b s.y)
  | adc {o s} m : Effect .adc o s ((s.setA (addResult s.a m (flag .c s.p))).setP (addFlags s.a m s.p))
  | sbc {o s} m : Effect .sbc o s ((s.setA (addResult s.a m (flag .c s.p))).setP (addFlags s.a m s.p))
  | and {o s} v : Effect .and o s (s.setRegZN .a v)
  | ora {o s} v : Effect .ora o s (s.setRegZN .a v)
  | eor {o s} v : Effect .eor o s (s.setRegZN .a v)
  | bit {o s} m : Effect .bit o s (s.setP (bitFlags s.a m s.p))
  | cmp {o s} m : Effect .cmp o s (s.setP (compareFlags s.a m s.p))
  | cpx {o s} m : Effect .cpx o s (s.setP (compareFlags s.x m s.p))
  | cpy {o s} m : Effect .cpy o s (s.setP (compareFlags s.y m s.p))
  | inc {o s} b v : Effect .inc o s ((s.write b v).setP (updateZN v s.p))
  | dec {o s} b v : Effect .dec o s ((s.write b v).setP (updateZN v s.p))
  | shiftA {mn s} (op : ShiftOp) (h : mn ∈ [Mnemonic.asl, .lsr, .rol, .ror]) :
      Effect mn .acc s ((s.setA (shiftResult op s.a (flag .c s.p))).setP (shiftFlags op s.a s.p))
  | shiftMemory {mn o s} (op : ShiftOp) (b) (h : mn ∈ [Mnemonic.asl, .lsr, .rol, .ror]) (ho : o ≠ .acc) :
      Effect mn o s ((s.write b (shiftResult op (s.read b) (flag .c s.p))).setP (shiftFlags op (s.read b) s.p))
  | inx {o s} v : Effect .inx o s (s.setRegZN .x v)
  | iny {o s} v : Effect .iny o s (s.setRegZN .y v)
  | dex {o s} v : Effect .dex o s (s.setRegZN .x v)
  | dey {o s} v : Effect .dey o s (s.setRegZN .y v)
  | tax {o s} : Effect .tax o s (s.setRegZN .x s.a)
  | tay {o s} : Effect .tay o s (s.setRegZN .y s.a)
  | txa {o s} : Effect .txa o s (s.setRegZN .a s.x)
  | tya {o s} : Effect .tya o s (s.setRegZN .a s.y)
  | tsx {o s} : Effect .tsx o s (s.setRegZN .x s.sp)
  | txs {o s} : Effect .txs o s (s.setReg .sp s.x)
  | pha {o s} : Effect .pha o s (s.push s.a)
  | php {o s} : Effect .php o s (s.push s.p)
  | pla {o s} : Effect .pla o s (s.pop.2.setRegZN .a s.pop.1)
  | plp {o s} : Effect .plp o s (s.pop.2.setP (loadP s.pop.1))
  | sec {o s} : Effect .sec o s (s.setP (setFlag .c s.p))
  | clc {o s} : Effect .clc o s (s.setP (clearFlag .c s.p))
  | sed {o s} : Effect .sed o s (s.setP (setFlag .d s.p))
  | cld {o s} : Effect .cld o s (s.setP (clearFlag .d s.p))
  | sei {o s} : Effect .sei o s (s.setP (setFlag .i s.p))
  | cli {o s} : Effect .cli o s (s.setP (clearFlag .i s.p))
  | clv {o s} : Effect .clv o s (s.setP (clearFlag .v s.p))
  | keep {mn o s} (h : mn ∈ [Mnemonic.bcc, .bcs, .beq, .bne, .bmi, .bpl, .bvc, .bvs, .jmp, .nop, .brk]) :
      Effect mn o s s
  | jsr {o s} l : Effect .jsr o s (s.push16 l)
  | rts {o s} : Effect .rts o s s.pop16.2
  | rti {o s} : Effect .rti o s (s.pop.2.pop16.2.setP (loadP s.pop.1))

/-- A completed instruction has its mnemonic's effect, then writes PC; only BRK ends as `halt`. -/
theorem exec_effect {i : Instr} {s t : State} (h : exec i s = .next t) :
    ∃ u pc e, Effect i.mnemonic i.operand s u ∧ t = u.endStep pc e ∧ (e = .halt ↔ i.mnemonic = .brk) := by
  have hw := i.form_mem_formsOf
  rw [exec_eq_meaning] at h
  generalize i.operand = o at *
  cases hmn : i.mnemonic <;> rw [hmn] at h hw <;> simp only [meaning] at h
  case lda =>
    obtain ⟨_, _, pc, hp, rfl⟩ := load_eq_next_iff.1 h
    exact ⟨_, _, _, .lda _, rfl, by simp⟩
  case ldx =>
    obtain ⟨_, _, pc, hp, rfl⟩ := load_eq_next_iff.1 h
    exact ⟨_, _, _, .ldx _, rfl, by simp⟩
  case ldy =>
    obtain ⟨_, _, pc, hp, rfl⟩ := load_eq_next_iff.1 h
    exact ⟨_, _, _, .ldy _, rfl, by simp⟩
  case sta =>
    obtain ⟨_, _, pc, hp, rfl⟩ := store_eq_next_iff.1 h
    exact ⟨_, _, _, .sta _, rfl, by simp⟩
  case stx =>
    obtain ⟨_, _, pc, hp, rfl⟩ := store_eq_next_iff.1 h
    exact ⟨_, _, _, .stx _, rfl, by simp⟩
  case sty =>
    obtain ⟨_, _, pc, hp, rfl⟩ := store_eq_next_iff.1 h
    exact ⟨_, _, _, .sty _, rfl, by simp⟩
  case adc =>
    obtain ⟨_, _, pc, hp, rfl⟩ := addToA_eq_next_iff.1 h
    exact ⟨_, _, _, .adc _, rfl, by simp⟩
  case sbc =>
    obtain ⟨_, _, pc, hp, rfl⟩ := addToA_eq_next_iff.1 h
    exact ⟨_, _, _, .sbc _, rfl, by simp⟩
  case and =>
    obtain ⟨_, _, pc, hp, rfl⟩ := combineA_eq_next_iff.1 h
    exact ⟨_, _, _, .and _, rfl, by simp⟩
  case ora =>
    obtain ⟨_, _, pc, hp, rfl⟩ := combineA_eq_next_iff.1 h
    exact ⟨_, _, _, .ora _, rfl, by simp⟩
  case eor =>
    obtain ⟨_, _, pc, hp, rfl⟩ := combineA_eq_next_iff.1 h
    exact ⟨_, _, _, .eor _, rfl, by simp⟩
  case bit =>
    obtain ⟨_, _, pc, hp, rfl⟩ := bitTest_eq_next_iff.1 h
    exact ⟨_, _, _, .bit _, rfl, by simp⟩
  case cmp =>
    obtain ⟨_, _, pc, hp, rfl⟩ := compare_eq_next_iff.1 h
    exact ⟨_, _, _, .cmp _, rfl, by simp⟩
  case cpx =>
    obtain ⟨_, _, pc, hp, rfl⟩ := compare_eq_next_iff.1 h
    exact ⟨_, _, _, .cpx _, rfl, by simp⟩
  case cpy =>
    obtain ⟨_, _, pc, hp, rfl⟩ := compare_eq_next_iff.1 h
    exact ⟨_, _, _, .cpy _, rfl, by simp⟩
  case inc =>
    obtain ⟨_, _, pc, hp, rfl⟩ := stepMemory_eq_next_iff.1 h
    exact ⟨_, _, _, .inc _ _, rfl, by simp⟩
  case dec =>
    obtain ⟨_, _, pc, hp, rfl⟩ := stepMemory_eq_next_iff.1 h
    exact ⟨_, _, _, .dec _ _, rfl, by simp⟩
  case asl | lsr | rol | ror =>
    by_cases ha : o = .acc
    · simp only [ha, if_true] at h ⊢
      obtain ⟨pc, hp, rfl⟩ := shiftA_eq_next_iff.1 h
      exact ⟨_, _, _, .shiftA _ (by decide), rfl, by simp⟩
    · simp only [ha, if_false] at h
      obtain ⟨_, _, pc, hp, rfl⟩ := shiftMemory_eq_next_iff.1 h
      exact ⟨_, _, _, .shiftMemory _ _ (by decide) ha, rfl, by simp⟩
  case inx =>
    obtain ⟨pc, hp, rfl⟩ := stepRegister_eq_next_iff.1 h
    exact ⟨_, _, _, .inx _, rfl, by simp⟩
  case iny =>
    obtain ⟨pc, hp, rfl⟩ := stepRegister_eq_next_iff.1 h
    exact ⟨_, _, _, .iny _, rfl, by simp⟩
  case dex =>
    obtain ⟨pc, hp, rfl⟩ := stepRegister_eq_next_iff.1 h
    exact ⟨_, _, _, .dex _, rfl, by simp⟩
  case dey =>
    obtain ⟨pc, hp, rfl⟩ := stepRegister_eq_next_iff.1 h
    exact ⟨_, _, _, .dey _, rfl, by simp⟩
  case tax =>
    obtain ⟨pc, hp, rfl⟩ := transfer_eq_next_iff.1 h
    exact ⟨_, _, _, .tax, rfl, by simp⟩
  case tay =>
    obtain ⟨pc, hp, rfl⟩ := transfer_eq_next_iff.1 h
    exact ⟨_, _, _, .tay, rfl, by simp⟩
  case txa =>
    obtain ⟨pc, hp, rfl⟩ := transfer_eq_next_iff.1 h
    exact ⟨_, _, _, .txa, rfl, by simp⟩
  case tya =>
    obtain ⟨pc, hp, rfl⟩ := transfer_eq_next_iff.1 h
    exact ⟨_, _, _, .tya, rfl, by simp⟩
  case tsx =>
    obtain ⟨pc, hp, rfl⟩ := transfer_eq_next_iff.1 h
    exact ⟨_, _, _, .tsx, rfl, by simp⟩
  case pha =>
    obtain ⟨pc, hp, rfl⟩ := pushByte_eq_next_iff.1 h
    exact ⟨_, _, _, .pha, rfl, by simp⟩
  case php =>
    obtain ⟨pc, hp, rfl⟩ := pushByte_eq_next_iff.1 h
    exact ⟨_, _, _, .php, rfl, by simp⟩
  case pla =>
    obtain ⟨pc, hp, rfl⟩ := pullA_eq_next_iff.1 h
    exact ⟨_, _, _, .pla, rfl, by simp⟩
  case plp =>
    obtain ⟨pc, hp, rfl⟩ := pullP_eq_next_iff.1 h
    exact ⟨_, _, _, .plp, rfl, by simp⟩
  case brk =>
    obtain ⟨pc, hp, rfl⟩ := State.halt_eq_next_iff.1 h
    exact ⟨_, _, _, .keep (by decide), rfl, by simp⟩
  case nop =>
    obtain ⟨pc, hp, rfl⟩ := State.advance_eq_next_iff.1 h
    exact ⟨_, _, _, .keep (by decide), rfl, by simp⟩
  case txs =>
    obtain ⟨pc, hp, rfl⟩ := State.advance_eq_next_iff.1 h
    exact ⟨_, _, _, .txs, rfl, by simp⟩
  case sec =>
    obtain ⟨pc, hp, rfl⟩ := changeFlag_eq_next_iff.1 h
    exact ⟨_, _, _, .sec, rfl, by simp⟩
  case clc =>
    obtain ⟨pc, hp, rfl⟩ := changeFlag_eq_next_iff.1 h
    exact ⟨_, _, _, .clc, rfl, by simp⟩
  case sed =>
    obtain ⟨pc, hp, rfl⟩ := changeFlag_eq_next_iff.1 h
    exact ⟨_, _, _, .sed, rfl, by simp⟩
  case cld =>
    obtain ⟨pc, hp, rfl⟩ := changeFlag_eq_next_iff.1 h
    exact ⟨_, _, _, .cld, rfl, by simp⟩
  case sei =>
    obtain ⟨pc, hp, rfl⟩ := changeFlag_eq_next_iff.1 h
    exact ⟨_, _, _, .sei, rfl, by simp⟩
  case cli =>
    obtain ⟨pc, hp, rfl⟩ := changeFlag_eq_next_iff.1 h
    exact ⟨_, _, _, .cli, rfl, by simp⟩
  case clv =>
    obtain ⟨pc, hp, rfl⟩ := changeFlag_eq_next_iff.1 h
    exact ⟨_, _, _, .clv, rfl, by simp⟩
  case jmp =>
    obtain ⟨_, _, _, rfl⟩ := jumpTo_eq_next_iff.1 h
    exact ⟨_, _, _, .keep (by decide), rfl, by simp⟩
  case rts =>
    obtain ⟨_, _, rfl⟩ := returnFromSubroutine_eq_next_iff.1 h
    exact ⟨_, _, _, .rts, rfl, by simp⟩
  case rti =>
    rw [State.returnFromInterrupt_eq_next_iff] at h
    exact ⟨_, _, _, .rti, h, by simp⟩
  case jsr =>
    simp [formsOf] at hw
    cases o <;> simp [Operand.form] at hw
    obtain ⟨_, _, rfl⟩ := jumpToSubroutine_eq_next_iff.1 h
    exact ⟨_, _, _, .jsr _, rfl, by simp⟩
  all_goals
    obtain ⟨_, _, ⟨_, rfl⟩ | ⟨_, _, _, rfl⟩⟩ := branch_eq_next_iff.1 h <;>
      exact ⟨_, _, _, .keep (by decide), rfl, by simp⟩

end Sys2Proof.Machine
end

