-- ==== Sys2Proof/Laws/Flags.lean ====
section
/-! SUPPORT. Sys2Proof/Laws/Flags.lean: what writing one flag does to each bit of P. Every flag computation of
Sys2Proof/Machine/Flags.lean is a composition of `putFlag`, so these lemmas settle each of them bit by bit. -/

namespace Sys2Proof.Machine

theorem getLsbD_setFlag (f : Flag) (p : Byte) (k : Nat) :
    (setFlag f p).getLsbD k = (decide (k = f.bit) || p.getLsbD k) := by
  have hb : f.bit < 8 := by cases f <;> decide
  by_cases h : k = f.bit
  · subst h
    simp [setFlag, Flag.mask, hb]
  · by_cases hk : k < f.bit
    · simp [setFlag, Flag.mask, h, hk]
    · have h0 : k - f.bit ≠ 0 := by omega
      simp [setFlag, Flag.mask, h, h0]

theorem getLsbD_clearFlag (f : Flag) (p : Byte) (k : Nat) :
    (clearFlag f p).getLsbD k = (!decide (k = f.bit) && p.getLsbD k) := by
  have hb : f.bit < 8 := by cases f <;> decide
  by_cases h : k = f.bit
  · subst h
    simp [clearFlag, Flag.mask, hb]
  · by_cases h8 : k < 8
    · by_cases hk : k < f.bit
      · simp [clearFlag, Flag.mask, h, hk, h8]
      · have h0 : k - f.bit ≠ 0 := by omega
        simp [clearFlag, Flag.mask, h, h0, h8]
    · simp [clearFlag, BitVec.getLsbD_of_ge p k (by omega)]

/-- Writing a flag sets its bit and leaves the other seven. -/
theorem getLsbD_putFlag (f : Flag) (e : Bool) (p : Byte) (k : Nat) :
    (putFlag f e p).getLsbD k = if k = f.bit then e else p.getLsbD k := by
  cases e <;> by_cases h : k = f.bit <;> simp [putFlag, getLsbD_setFlag, getLsbD_clearFlag, h]

/-- The same, in simp's normal form for a bit below the width. -/
@[simp] theorem getElem_putFlag (f : Flag) (e : Bool) (p : Byte) (k : Nat) (hk : k < 8) :
    (putFlag f e p)[k] = if k = f.bit then e else p[k] := by
  simpa [BitVec.getLsbD_eq_getElem hk] using getLsbD_putFlag f e p k

theorem Flag.bit_injective {f g : Flag} (h : f.bit = g.bit) : f = g := by
  revert h
  cases f <;> cases g <;> decide

@[simp] theorem flag_putFlag_same (f : Flag) (e : Bool) (p : Byte) : flag f (putFlag f e p) = e := by
  simp [flag, getLsbD_putFlag]

theorem flag_putFlag_ne {f g : Flag} (h : g ≠ f) (e : Bool) (p : Byte) : flag g (putFlag f e p) = flag g p := by
  have hb : g.bit ≠ f.bit := fun e => h (Flag.bit_injective e)
  simp [flag, getLsbD_putFlag, hb]

@[simp] theorem alwaysOne_putFlag (f : Flag) (e : Bool) (p : Byte) :
    putFlag f e p &&& Config.statusAlwaysOne = p &&& Config.statusAlwaysOne := by
  revert p
  cases f <;> cases e <;> decide +kernel

@[simp] theorem alwaysOne_setFlag (f : Flag) (p : Byte) :
    setFlag f p &&& Config.statusAlwaysOne = p &&& Config.statusAlwaysOne := alwaysOne_putFlag f true p

@[simp] theorem alwaysOne_clearFlag (f : Flag) (p : Byte) :
    clearFlag f p &&& Config.statusAlwaysOne = p &&& Config.statusAlwaysOne := alwaysOne_putFlag f false p

@[simp] theorem alwaysOne_updateZN (r p : Byte) :
    updateZN r p &&& Config.statusAlwaysOne = p &&& Config.statusAlwaysOne := by
  simp [updateZN]

@[simp] theorem alwaysOne_addFlags (a n p : Byte) :
    addFlags a n p &&& Config.statusAlwaysOne = p &&& Config.statusAlwaysOne := by
  simp [addFlags]

@[simp] theorem alwaysOne_bitFlags (a m p : Byte) :
    bitFlags a m p &&& Config.statusAlwaysOne = p &&& Config.statusAlwaysOne := by
  simp [bitFlags]

@[simp] theorem alwaysOne_compareFlags (r m p : Byte) :
    compareFlags r m p &&& Config.statusAlwaysOne = p &&& Config.statusAlwaysOne := by
  simp [compareFlags]

@[simp] theorem alwaysOne_shiftFlags (op : ShiftOp) (v p : Byte) :
    shiftFlags op v p &&& Config.statusAlwaysOne = p &&& Config.statusAlwaysOne := by
  simp [shiftFlags]

@[simp] theorem alwaysOne_loadP (b : Byte) : loadP b &&& Config.statusAlwaysOne = Config.statusAlwaysOne := by
  revert b
  decide +kernel

end Sys2Proof.Machine
end

