-- ==== Sys2Proof/Laws/Memory.lean ====
section
/-! SUPPORT. Sys2Proof/Laws/Memory.lean: a read after a write, for every list of cells, and the canonical form, which
every memory operation keeps. -/

namespace Sys2Proof.Machine

namespace Memory

theorem find_erase_same (k : Nat) (m : Memory) : (m.erase k).find k = unlisted := by
  induction m with
  | nil => rfl
  | cons c m ih => by_cases h : c.1 = k <;> simp [erase, find, h, ih]

theorem find_erase_ne {j k : Nat} (hjk : j ≠ k) (m : Memory) : (m.erase k).find j = m.find j := by
  induction m with
  | nil => rfl
  | cons c m ih =>
    by_cases h : c.1 = k
    · simp [erase, find, h, ih, Ne.symm hjk]
    · simp [erase, find, h, ih]

theorem find_insert_erase_same (k : Nat) (v : Byte) (m : Memory) : ((m.erase k).insert k v).find k = v := by
  induction m with
  | nil => simp [erase, insert, find]
  | cons c m ih =>
    by_cases h : c.1 = k
    · simpa [erase, h] using ih
    · by_cases hk : k < c.1 <;> simp [erase, insert, find, h, hk, ih]

theorem find_insert_ne {j k : Nat} (hjk : j ≠ k) (v : Byte) (m : Memory) : (m.insert k v).find j = m.find j := by
  induction m with
  | nil => simp [insert, find, Ne.symm hjk]
  | cons c m ih => by_cases hk : k < c.1 <;> simp [insert, find, hk, ih, Ne.symm hjk]

@[simp] theorem find_put_same (k : Nat) (v : Byte) (m : Memory) : (m.put k v).find k = v := by
  unfold put
  split
  · next h => rw [find_erase_same, h]
  · exact find_insert_erase_same k v m

theorem find_put_ne {j k : Nat} (hjk : j ≠ k) (v : Byte) (m : Memory) : (m.put k v).find j = m.find j := by
  unfold put
  split
  · exact find_erase_ne hjk m
  · rw [find_insert_ne hjk, find_erase_ne hjk]

theorem wfFrom_cons (lo : Nat) (c : Host.Cell) (m : Memory) :
    wfFrom lo (c :: m) = true ↔ lo ≤ c.1 ∧ c.1 < 65536 ∧ c.2 ≠ unlisted ∧ wfFrom (c.1 + 1) m = true := by
  simp [wfFrom, and_assoc]

theorem wfFrom_mono {lo lo' : Nat} (h : lo' ≤ lo) {m : Memory} (hm : wfFrom lo m = true) : wfFrom lo' m = true := by
  cases m with
  | nil => rfl
  | cons c m =>
    rw [wfFrom_cons] at hm ⊢
    exact ⟨by omega, hm.2⟩

theorem wfFrom_erase (k : Nat) {lo : Nat} {m : Memory} (hm : wfFrom lo m = true) : wfFrom lo (m.erase k) = true := by
  induction m generalizing lo with
  | nil => rfl
  | cons c m ih =>
    rw [wfFrom_cons] at hm
    obtain ⟨h1, h2, h3, h4⟩ := hm
    by_cases h : c.1 = k
    · simp only [erase, h, if_true]
      exact ih (wfFrom_mono (by omega) h4)
    · simp only [erase, h, if_false]
      exact (wfFrom_cons _ _ _).2 ⟨h1, h2, h3, ih h4⟩

theorem wfFrom_insert_erase {k : Nat} {v : Byte} (hk : k < 65536) (hv : v ≠ unlisted) {lo : Nat} (hlo : lo ≤ k)
    {m : Memory} (hm : wfFrom lo m = true) : wfFrom lo ((m.erase k).insert k v) = true := by
  induction m generalizing lo with
  | nil => exact (wfFrom_cons _ _ _).2 ⟨hlo, hk, hv, rfl⟩
  | cons c m ih =>
    rw [wfFrom_cons] at hm
    obtain ⟨h1, h2, h3, h4⟩ := hm
    by_cases h : c.1 = k
    · simp only [erase, h, if_true]
      exact ih hlo (wfFrom_mono (by omega) h4)
    · by_cases hlt : k < c.1
      · simp only [erase, insert, h, hlt, if_true, if_false]
        exact (wfFrom_cons _ _ _).2 ⟨hlo, hk, hv, (wfFrom_cons _ _ _).2 ⟨hlt, h2, h3, wfFrom_erase k h4⟩⟩
      · simp only [erase, insert, h, hlt, if_false]
        exact (wfFrom_cons _ _ _).2 ⟨h1, h2, h3, ih (by omega) h4⟩

/-- Every store keeps the canonical form. -/
theorem wf_put {k : Nat} (hk : k < 65536) (v : Byte) {m : Memory} (hm : m.wf = true) : (m.put k v).wf = true := by
  unfold put
  split
  · exact wfFrom_erase k hm
  · next h => exact wfFrom_insert_erase hk h (Nat.zero_le k) hm

end Memory

@[simp] theorem State.read_write_same (s : State) (b : Addr) (v : Byte) : (s.write b v).read b = v :=
  Memory.find_put_same _ _ _

theorem State.read_write_ne (s : State) {b c : Addr} (h : c ≠ b) (v : Byte) : (s.write b v).read c = s.read c :=
  Memory.find_put_ne (fun e => h (BitVec.eq_of_toNat_eq e)) _ _

theorem State.write_wf (s : State) (b : Addr) (v : Byte) (h : s.mem.wf = true) : (s.write b v).mem.wf = true :=
  Memory.wf_put b.isLt v h

theorem State.push_wf (s : State) (v : Byte) (h : s.mem.wf = true) : (s.push v).mem.wf = true :=
  s.write_wf _ v h

theorem State.push16_wf (s : State) (v : Addr) (h : s.mem.wf = true) : (s.push16 v).mem.wf = true :=
  (s.push (hiByte v)).push_wf _ (s.push_wf _ h)

theorem State.storeBytes_wf (s : State) (b : Addr) (bs : List Byte) (h : s.mem.wf = true) :
    (s.storeBytes b bs).mem.wf = true := by
  induction bs generalizing s b with
  | nil => exact h
  | cons v bs ih => exact ih _ _ (s.write_wf b v h)

theorem State.write16_wf {s t : State} {b v : Addr} (ht : s.write16 b v = some t) (h : s.mem.wf = true) :
    t.mem.wf = true := by
  unfold State.write16 at ht
  obtain ⟨b1, -, rfl⟩ := Option.map_eq_some_iff.1 ht
  exact State.write_wf _ _ _ (s.write_wf _ _ h)

theorem State.withFetchWord_wf (s : State) (nbits w : Nat) (h : s.mem.wf = true) :
    (s.withFetchWord nbits w).mem.wf = true :=
  State.write_wf _ _ _ (State.write_wf _ _ _ (s.write_wf _ _ h))

theorem State.reset_wf : State.reset.mem.wf = true := rfl

end Sys2Proof.Machine
end

