-- ==== Sys2Proof/Laws/PerInstr.lean ====
section
/-! SUPPORT. Sys2Proof/Laws/PerInstr.lean: the statement made of every instruction as syntax, one lemma for each
constructor: it is well-formed, its opcode's row of the opcode table carries its mnemonic, its operand form and its
length, and its encoding has that length (30_encoding.md R70 to R72, R92). -/

namespace Sys2Proof.Laws.EncodedByTable

/-- The instruction is one the opcode table describes. -/
def Statement (i : Instr) : Prop :=
  i.wellFormed = true ∧
    (descriptorOf i.opcode).map (fun d => (d.mnemonic, d.form, d.len)) =
      some (i.mnemonic, i.operand.form, (encode i).length)

/-- It holds of an instruction whose form is one of its mnemonic's. -/
theorem of_form (i : Instr) (h : i.wellFormed = true) : Statement i :=
  ⟨h, by rw [encode_length]; exact descriptorOf_opcode i⟩

theorem adcImm (v : Byte) : Statement (.adcImm v) := of_form _ rfl

theorem adcZp (zp : Byte) : Statement (.adcZp zp) := of_form _ rfl

theorem adcZpx (zp : Byte) : Statement (.adcZpx zp) := of_form _ rfl

theorem adcAbs (addr : Addr) : Statement (.adcAbs addr) := of_form _ rfl

theorem adcAbx (addr : Addr) : Statement (.adcAbx addr) := of_form _ rfl

theorem adcAby (addr : Addr) : Statement (.adcAby addr) := of_form _ rfl

theorem adcInx (zp : Byte) : Statement (.adcInx zp) := of_form _ rfl

theorem adcIny (zp : Byte) : Statement (.adcIny zp) := of_form _ rfl

theorem andImm (v : Byte) : Statement (.andImm v) := of_form _ rfl

theorem andZp (zp : Byte) : Statement (.andZp zp) := of_form _ rfl

theorem andZpx (zp : Byte) : Statement (.andZpx zp) := of_form _ rfl

theorem andAbs (addr : Addr) : Statement (.andAbs addr) := of_form _ rfl

theorem andAbx (addr : Addr) : Statement (.andAbx addr) := of_form _ rfl

theorem andAby (addr : Addr) : Statement (.andAby addr) := of_form _ rfl

theorem andInx (zp : Byte) : Statement (.andInx zp) := of_form _ rfl

theorem andIny (zp : Byte) : Statement (.andIny zp) := of_form _ rfl

theorem aslAcc : Statement .aslAcc := of_form _ rfl

theorem aslZp (zp : Byte) : Statement (.aslZp zp) := of_form _ rfl

theorem aslZpx (zp : Byte) : Statement (.aslZpx zp) := of_form _ rfl

theorem aslAbs (addr : Addr) : Statement (.aslAbs addr) := of_form _ rfl

theorem aslAbx (addr : Addr) : Statement (.aslAbx addr) := of_form _ rfl

theorem bcc (rel : Byte) : Statement (.bcc rel) := of_form _ rfl

theorem bcs (rel : Byte) : Statement (.bcs rel) := of_form _ rfl

theorem beq (rel : Byte) : Statement (.beq rel) := of_form _ rfl

theorem bitZp (zp : Byte) : Statement (.bitZp zp) := of_form _ rfl

theorem bitAbs (addr : Addr) : Statement (.bitAbs addr) := of_form _ rfl

theorem bmi (rel : Byte) : Statement (.bmi rel) := of_form _ rfl

theorem bne (rel : Byte) : Statement (.bne rel) := of_form _ rfl

theorem bpl (rel : Byte) : Statement (.bpl rel) := of_form _ rfl

theorem brk : Statement .brk := of_form _ rfl

theorem bvc (rel : Byte) : Statement (.bvc rel) := of_form _ rfl

theorem bvs (rel : Byte) : Statement (.bvs rel) := of_form _ rfl

theorem clc : Statement .clc := of_form _ rfl

theorem cld : Statement .cld := of_form _ rfl

theorem cli : Statement .cli := of_form _ rfl

theorem clv : Statement .clv := of_form _ rfl

theorem cmpImm (v : Byte) : Statement (.cmpImm v) := of_form _ rfl

theorem cmpZp (zp : Byte) : Statement (.cmpZp zp) := of_form _ rfl

theorem cmpZpx (zp : Byte) : Statement (.cmpZpx zp) := of_form _ rfl

theorem cmpAbs (addr : Addr) : Statement (.cmpAbs addr) := of_form _ rfl

theorem cmpAbx (addr : Addr) : Statement (.cmpAbx addr) := of_form _ rfl

theorem cmpAby (addr : Addr) : Statement (.cmpAby addr) := of_form _ rfl

theorem cmpInx (zp : Byte) : Statement (.cmpInx zp) := of_form _ rfl

theorem cmpIny (zp : Byte) : Statement (.cmpIny zp) := of_form _ rfl

theorem cpxImm (v : Byte) : Statement (.cpxImm v) := of_form _ rfl

theorem cpxZp (zp : Byte) : Statement (.cpxZp zp) := of_form _ rfl

theorem cpxAbs (addr : Addr) : Statement (.cpxAbs addr) := of_form _ rfl

theorem cpyImm (v : Byte) : Statement (.cpyImm v) := of_form _ rfl

theorem cpyZp (zp : Byte) : Statement (.cpyZp zp) := of_form _ rfl

theorem cpyAbs (addr : Addr) : Statement (.cpyAbs addr) := of_form _ rfl

theorem decZp (zp : Byte) : Statement (.decZp zp) := of_form _ rfl

theorem decZpx (zp : Byte) : Statement (.decZpx zp) := of_form _ rfl

theorem decAbs (addr : Addr) : Statement (.decAbs addr) := of_form _ rfl

theorem decAbx (addr : Addr) : Statement (.decAbx addr) := of_form _ rfl

theorem dex : Statement .dex := of_form _ rfl

theorem dey : Statement .dey := of_form _ rfl

theorem eorImm (v : Byte) : Statement (.eorImm v) := of_form _ rfl

theorem eorZp (zp : Byte) : Statement (.eorZp zp) := of_form _ rfl

theorem eorZpx (zp : Byte) : Statement (.eorZpx zp) := of_form _ rfl

theorem eorAbs (addr : Addr) : Statement (.eorAbs addr) := of_form _ rfl

theorem eorAbx (addr : Addr) : Statement (.eorAbx addr) := of_form _ rfl

theorem eorAby (addr : Addr) : Statement (.eorAby addr) := of_form _ rfl

theorem eorInx (zp : Byte) : Statement (.eorInx zp) := of_form _ rfl

theorem eorIny (zp : Byte) : Statement (.eorIny zp) := of_form _ rfl

theorem incZp (zp : Byte) : Statement (.incZp zp) := of_form _ rfl

theorem incZpx (zp : Byte) : Statement (.incZpx zp) := of_form _ rfl

theorem incAbs (addr : Addr) : Statement (.incAbs addr) := of_form _ rfl

theorem incAbx (addr : Addr) : Statement (.incAbx addr) := of_form _ rfl

theorem inx : Statement .inx := of_form _ rfl

theorem iny : Statement .iny := of_form _ rfl

theorem jmpAbs (addr : Addr) : Statement (.jmpAbs addr) := of_form _ rfl

theorem jmpInd (addr : Addr) : Statement (.jmpInd addr) := of_form _ rfl

theorem jsr (addr : Addr) : Statement (.jsr addr) := of_form _ rfl

theorem ldaImm (v : Byte) : Statement (.ldaImm v) := of_form _ rfl

theorem ldaZp (zp : Byte) : Statement (.ldaZp zp) := of_form _ rfl

theorem ldaZpx (zp : Byte) : Statement (.ldaZpx zp) := of_form _ rfl

theorem ldaAbs (addr : Addr) : Statement (.ldaAbs addr) := of_form _ rfl

theorem ldaAbx (addr : Addr) : Statement (.ldaAbx addr) := of_form _ rfl

theorem ldaAby (addr : Addr) : Statement (.ldaAby addr) := of_form _ rfl

theorem ldaInx (zp : Byte) : Statement (.ldaInx zp) := of_form _ rfl

theorem ldaIny (zp : Byte) : Statement (.ldaIny zp) := of_form _ rfl

theorem ldxImm (v : Byte) : Statement (.ldxImm v) := of_form _ rfl

theorem ldxZp (zp : Byte) : Statement (.ldxZp zp) := of_form _ rfl

theorem ldxZpy (zp : Byte) : Statement (.ldxZpy zp) := of_form _ rfl

theorem ldxAbs (addr : Addr) : Statement (.ldxAbs addr) := of_form _ rfl

theorem ldxAby (addr : Addr) : Statement (.ldxAby addr) := of_form _ rfl

theorem ldyImm (v : Byte) : Statement (.ldyImm v) := of_form _ rfl

theorem ldyZp (zp : Byte) : Statement (.ldyZp zp) := of_form _ rfl

theorem ldyZpx (zp : Byte) : Statement (.ldyZpx zp) := of_form _ rfl

theorem ldyAbs (addr : Addr) : Statement (.ldyAbs addr) := of_form _ rfl

theorem ldyAbx (addr : Addr) : Statement (.ldyAbx addr) := of_form _ rfl

theorem lsrAcc : Statement .lsrAcc := of_form _ rfl

theorem lsrZp (zp : Byte) : Statement (.lsrZp zp) := of_form _ rfl

theorem lsrZpx (zp : Byte) : Statement (.lsrZpx zp) := of_form _ rfl

theorem lsrAbs (addr : Addr) : Statement (.lsrAbs addr) := of_form _ rfl

theorem lsrAbx (addr : Addr) : Statement (.lsrAbx addr) := of_form _ rfl

theorem nop : Statement .nop := of_form _ rfl

theorem oraImm (v : Byte) : Statement (.oraImm v) := of_form _ rfl

theorem oraZp (zp : Byte) : Statement (.oraZp zp) := of_form _ rfl

theorem oraZpx (zp : Byte) : Statement (.oraZpx zp) := of_form _ rfl

theorem oraAbs (addr : Addr) : Statement (.oraAbs addr) := of_form _ rfl

theorem oraAbx (addr : Addr) : Statement (.oraAbx addr) := of_form _ rfl

theorem oraAby (addr : Addr) : Statement (.oraAby addr) := of_form _ rfl

theorem oraInx (zp : Byte) : Statement (.oraInx zp) := of_form _ rfl

theorem oraIny (zp : Byte) : Statement (.oraIny zp) := of_form _ rfl

theorem pha : Statement .pha := of_form _ rfl

theorem php : Statement .php := of_form _ rfl

theorem pla : Statement .pla := of_form _ rfl

theorem plp : Statement .plp := of_form _ rfl

theorem rolAcc : Statement .rolAcc := of_form _ rfl

theorem rolZp (zp : Byte) : Statement (.rolZp zp) := of_form _ rfl

theorem rolZpx (zp : Byte) : Statement (.rolZpx zp) := of_form _ rfl

theorem rolAbs (addr : Addr) : Statement (.rolAbs addr) := of_form _ rfl

theorem rolAbx (addr : Addr) : Statement (.rolAbx addr) := of_form _ rfl

theorem rorAcc : Statement .rorAcc := of_form _ rfl

theorem rorZp (zp : Byte) : Statement (.rorZp zp) := of_form _ rfl

theorem rorZpx (zp : Byte) : Statement (.rorZpx zp) := of_form _ rfl

theorem rorAbs (addr : Addr) : Statement (.rorAbs addr) := of_form _ rfl

theorem rorAbx (addr : Addr) : Statement (.rorAbx addr) := of_form _ rfl

theorem rti : Statement .rti := of_form _ rfl

theorem rts : Statement .rts := of_form _ rfl

theorem sbcImm (v : Byte) : Statement (.sbcImm v) := of_form _ rfl

theorem sbcZp (zp : Byte) : Statement (.sbcZp zp) := of_form _ rfl

theorem sbcZpx (zp : Byte) : Statement (.sbcZpx zp) := of_form _ rfl

theorem sbcAbs (addr : Addr) : Statement (.sbcAbs addr) := of_form _ rfl

theorem sbcAbx (addr : Addr) : Statement (.sbcAbx addr) := of_form _ rfl

theorem sbcAby (addr : Addr) : Statement (.sbcAby addr) := of_form _ rfl

theorem sbcInx (zp : Byte) : Statement (.sbcInx zp) := of_form _ rfl

theorem sbcIny (zp : Byte) : Statement (.sbcIny zp) := of_form _ rfl

theorem sec : Statement .sec := of_form _ rfl

theorem sed : Statement .sed := of_form _ rfl

theorem sei : Statement .sei := of_form _ rfl

theorem staZp (zp : Byte) : Statement (.staZp zp) := of_form _ rfl

theorem staZpx (zp : Byte) : Statement (.staZpx zp) := of_form _ rfl

theorem staAbs (addr : Addr) : Statement (.staAbs addr) := of_form _ rfl

theorem staAbx (addr : Addr) : Statement (.staAbx addr) := of_form _ rfl

theorem staAby (addr : Addr) : Statement (.staAby addr) := of_form _ rfl

theorem staInx (zp : Byte) : Statement (.staInx zp) := of_form _ rfl

theorem staIny (zp : Byte) : Statement (.staIny zp) := of_form _ rfl

theorem stxZp (zp : Byte) : Statement (.stxZp zp) := of_form _ rfl

theorem stxZpy (zp : Byte) : Statement (.stxZpy zp) := of_form _ rfl

theorem stxAbs (addr : Addr) : Statement (.stxAbs addr) := of_form _ rfl

theorem styZp (zp : Byte) : Statement (.styZp zp) := of_form _ rfl

theorem styZpx (zp : Byte) : Statement (.styZpx zp) := of_form _ rfl

theorem styAbs (addr : Addr) : Statement (.styAbs addr) := of_form _ rfl

theorem tax : Statement .tax := of_form _ rfl

theorem tay : Statement .tay := of_form _ rfl

theorem tsx : Statement .tsx := of_form _ rfl

theorem txa : Statement .txa := of_form _ rfl

theorem txs : Statement .txs := of_form _ rfl

theorem tya : Statement .tya := of_form _ rfl

end Sys2Proof.Laws.EncodedByTable
end

