-- ==== Sys2Proof/Laws/Shape.lean ====
section
/-! SUPPORT. Sys2Proof/Laws/Shape.lean: the 151 meanings have seven shapes. It is for statements of what a step can
answer (a fault, a refusal, a next state), whatever the effect is. -/

namespace Sys2Proof.Machine

/-- The shapes of a meaning: an effect and the final advance; an effect at an effective address and the final advance;
the five kinds of control transfer. -/
inductive HandlerShape : (State → Result) → Prop where
  | finish (f : State → State) (n : Nat) (e : StepEnd) (hpc : ∀ s, (f s).pc = s.pc)
      (hpolicy : ∀ s, (f s).topPolicy = s.topPolicy) : HandlerShape (fun s => (f s).finish n e)
  | addressed (mn : Mnemonic) (o : Operand) (f : State → Addr → State) (ho : o.form.tag ≠ .noneAddressing)
      (hpc : ∀ s a, (f s a).pc = s.pc) (hpolicy : ∀ s a, (f s a).topPolicy = s.topPolicy) :
      HandlerShape (fun s => withAddress mn o s (fun ea => (f s ea).advance o.len))
  | branch (f : Flag) (value : Bool) (rel : Byte) : HandlerShape (fun s => Machine.branch f value rel s)
  | jump (o : Operand) (ho : o.form.tag ≠ .noneAddressing) : HandlerShape (fun s => jumpTo o s)
  | subroutine (target : Addr) : HandlerShape (fun s => jumpToSubroutine (.abs target) s)
  | subroutineReturn : HandlerShape (fun s => returnFromSubroutine s)
  | interruptReturn : HandlerShape (fun s => s.returnFromInterrupt)

/-- The tag of an operand whose mnemonic has no form with the tag NoneAddressing. -/
theorem tag_ne_of_forms {o : Operand} {mn : Mnemonic} (h : o.form ∈ formsOf mn)
    (hforms : ∀ f ∈ formsOf mn, f.tag ≠ .noneAddressing) : o.form.tag ≠ .noneAddressing := hforms _ h

/-- Every arm of `exec` has one of the shapes. -/
theorem exec_shape (i : Instr) : HandlerShape (fun s => exec i s) := by
  have h := i.form_mem_formsOf
  simp only [exec_eq_meaning]
  cases hm : i.mnemonic <;> rw [hm] at h <;> simp only [meaning]
  case lda =>
    exact .addressed .lda _ (fun s ea => s.setRegZN .a (dataAt _ s ea))
      (tag_ne_of_forms h (by decide)) (fun _ _ => rfl) (fun _ _ => rfl)
  case ldx =>
    exact .addressed .ldx _ (fun s ea => s.setRegZN .x (dataAt _ s ea))
      (tag_ne_of_forms h (by decide)) (fun _ _ => rfl) (fun _ _ => rfl)
  case ldy =>
    exact .addressed .ldy _ (fun s ea => s.setRegZN .y (dataAt _ s ea))
      (tag_ne_of_forms h (by decide)) (fun _ _ => rfl) (fun _ _ => rfl)
  case sta =>
    exact .addressed .sta _ (fun s ea => s.write ea s.a)
      (tag_ne_of_forms h (by decide)) (fun _ _ => rfl) (fun _ _ => rfl)
  case stx =>
    exact .addressed .stx _ (fun s ea => s.write ea s.x)
      (tag_ne_of_forms h (by decide)) (fun _ _ => rfl) (fun _ _ => rfl)
  case sty =>
    exact .addressed .sty _ (fun s ea => s.write ea s.y)
      (tag_ne_of_forms h (by decide)) (fun _ _ => rfl) (fun _ _ => rfl)
  case adc =>
    exact .addressed .adc _ (fun s ea => (s.setA (addResult s.a (dataAt _ s ea) (flag .c s.p))).setP
        (addFlags s.a (dataAt _ s ea) s.p))
      (tag_ne_of_forms h (by decide)) (fun _ _ => rfl) (fun _ _ => rfl)
  case sbc =>
    exact .addressed .sbc _ (fun s ea => (s.setA (addResult s.a (onesComplement (dataAt _ s ea)) (flag .c s.p))).setP
        (addFlags s.a (onesComplement (dataAt _ s ea)) s.p))
      (tag_ne_of_forms h (by decide)) (fun _ _ => rfl) (fun _ _ => rfl)
  case and =>
    exact .addressed .and _ (fun s ea => s.setRegZN .a (s.a &&& (dataAt _ s ea)))
      (tag_ne_of_forms h (by decide)) (fun _ _ => rfl) (fun _ _ => rfl)
  case ora =>
    exact .addressed .ora _ (fun s ea => s.setRegZN .a (s.a ||| (dataAt _ s ea)))
      (tag_ne_of_forms h (by decide)) (fun _ _ => rfl) (fun _ _ => rfl)
  case eor =>
    exact .addressed .eor _ (fun s ea => s.setRegZN .a (s.a ^^^ (dataAt _ s ea)))
      (tag_ne_of_forms h (by decide)) (fun _ _ => rfl) (fun _ _ => rfl)
  case bit =>
    exact .addressed .bit _ (fun s ea => s.setP (bitFlags s.a (dataAt _ s ea) s.p))
      (tag_ne_of_forms h (by decide)) (fun _ _ => rfl) (fun _ _ => rfl)
  case cmp =>
    exact .addressed .cmp _ (fun s ea => s.setP (compareFlags s.a (dataAt _ s ea) s.p))
      (tag_ne_of_forms h (by decide)) (fun _ _ => rfl) (fun _ _ => rfl)
  case cpx =>
    exact .addressed .cpx _ (fun s ea => s.setP (compareFlags s.x (dataAt _ s ea) s.p))
      (tag_ne_of_forms h (by decide)) (fun _ _ => rfl) (fun _ _ => rfl)
  case cpy =>
    exact .addressed .cpy _ (fun s ea => s.setP (compareFlags s.y (dataAt _ s ea) s.p))
      (tag_ne_of_forms h (by decide)) (fun _ _ => rfl) (fun _ _ => rfl)
  case inc =>
    exact .addressed .inc _ (fun s ea => (s.write ea (s.read ea + 1#8)).setP (updateZN (s.read ea + 1#8) s.p))
      (tag_ne_of_forms h (by decide)) (fun _ _ => rfl) (fun _ _ => rfl)
  case dec =>
    exact .addressed .dec _ (fun s ea => (s.write ea (s.read ea - 1#8)).setP (updateZN (s.read ea - 1#8) s.p))
      (tag_ne_of_forms h (by decide)) (fun _ _ => rfl) (fun _ _ => rfl)
  case jmp => exact .jump _ (tag_ne_of_forms h (by decide))
  case rts => exact .subroutineReturn
  case rti => exact .interruptReturn
  case jsr =>
    simp [formsOf] at h
    cases ho : i.operand <;> simp [ho, Operand.form] at h
    exact .subroutine _
  case bcc | bcs | beq | bne | bmi | bpl | bvc | bvs => exact .branch _ _ _
  case asl | lsr | rol | ror =>
    by_cases ha : i.operand = .acc
    · simp only [ha, if_true]
      exact .finish (fun s => (s.setA (shiftResult _ s.a (flag .c s.p))).setP (shiftFlags _ s.a s.p)) 1 .next
        (fun _ => rfl) (fun _ => rfl)
    · simp only [ha, if_false]
      refine .addressed _ _ (fun s ea => (s.write ea (shiftResult _ (s.read ea) (flag .c s.p))).setP
        (shiftFlags _ (s.read ea) s.p)) ?_ (fun _ _ => rfl) (fun _ _ => rfl)
      have ha : i.operand.form ≠ .acc := fun hf => ha (by revert hf; cases i.operand <;> simp [Operand.form])
      revert h ha
      generalize i.operand.form = f
      revert f; decide
  case inx => exact .finish (fun s => s.setRegZN .x (s.x + 1#8)) 1 .next (fun _ => rfl) (fun _ => rfl)
  case iny => exact .finish (fun s => s.setRegZN .y (s.y + 1#8)) 1 .next (fun _ => rfl) (fun _ => rfl)
  case dex => exact .finish (fun s => s.setRegZN .x (s.x - 1#8)) 1 .next (fun _ => rfl) (fun _ => rfl)
  case dey => exact .finish (fun s => s.setRegZN .y (s.y - 1#8)) 1 .next (fun _ => rfl) (fun _ => rfl)
  case pha => exact .finish (fun s => s.push s.a) 1 .next (fun _ => rfl) (fun _ => rfl)
  case php => exact .finish (fun s => s.push s.p) 1 .next (fun _ => rfl) (fun _ => rfl)
  case pla => exact .finish (fun s => s.pop.2.setRegZN .a s.pop.1) 1 .next (fun _ => rfl) (fun _ => rfl)
  case plp => exact .finish (fun s => s.pop.2.setP (loadP s.pop.1)) 1 .next (fun _ => rfl) (fun _ => rfl)
  case nop => exact .finish (fun s => s) 1 .next (fun _ => rfl) (fun _ => rfl)
  case brk => exact .finish (fun s => s) 1 .halt (fun _ => rfl) (fun _ => rfl)
  case txs => exact .finish (fun s => s.setReg .sp s.x) 1 .next (fun _ => rfl) (fun _ => rfl)
  case tax => exact .finish (fun s => s.setRegZN .x s.a) 1 .next (fun _ => rfl) (fun _ => rfl)
  case tay => exact .finish (fun s => s.setRegZN .y s.a) 1 .next (fun _ => rfl) (fun _ => rfl)
  case txa => exact .finish (fun s => s.setRegZN .a s.x) 1 .next (fun _ => rfl) (fun _ => rfl)
  case tya => exact .finish (fun s => s.setRegZN .a s.y) 1 .next (fun _ => rfl) (fun _ => rfl)
  case tsx => exact .finish (fun s => s.setRegZN .x s.sp) 1 .next (fun _ => rfl) (fun _ => rfl)
  all_goals exact .finish (fun s => s.setP _) 1 .next (fun _ => rfl) (fun _ => rfl)

end Sys2Proof.Machine
end

