-- ==== Sys2Proof/Laws/Step.lean ====
section
/-! SUPPORT. Sys2Proof/Laws/Step.lean: everything one step can answer, and the induction over reachable states. -/

namespace Sys2Proof.Machine

/-- The four ways through a step (R207). -/
theorem step_cases (s : State) :
    (s.inc16 s.pc 1 = none ∧ step s = refuseAddressWrap) ∨
    ((s.inc16 s.pc 1).isSome ∧ s.fetch = none ∧ step s = s.raiseDecodeFault) ∨
    (∃ i, (s.inc16 s.pc 1).isSome ∧ s.fetch = some i ∧ step s = exec i s) := by
  cases h1 : s.inc16 s.pc 1 with
  | none => exact .inl ⟨rfl, by simp only [step, h1]⟩
  | some pc1 =>
    cases h2 : s.fetch with
    | none => exact .inr (.inl ⟨rfl, rfl, by simp only [step, h1, h2]⟩)
    | some i => exact .inr (.inr ⟨i, rfl, rfl, by simp only [step, h1, h2]⟩)

/-- A completed step is a completed handler of the fetched instruction. -/
theorem step_eq_next_iff {s t : State} :
    step s = .next t ↔ ∃ i, (s.inc16 s.pc 1).isSome ∧ s.fetch = some i ∧ exec i s = .next t := by
  rcases step_cases s with ⟨h1, h2⟩ | ⟨h1, h2, h3⟩ | ⟨i, h1, h2, h3⟩
  · simp [h1, h2]
  · simp [h2, h3, State.raiseDecodeFault]
  · simp [h1, h2, h3]

/-- What holds at a state and is kept by every completed step holds in every state reached from it. -/
theorem Reaches.induct {P : State → Prop} {s t : State} (h : Reaches s t) (h0 : P s)
    (hstep : ∀ u v, P u → step u = .next v → P v) : P t := by
  induction h with
  | refl => exact h0
  | tail _ hs ih => exact hstep _ _ ih hs

end Sys2Proof.Machine
end

