-- ==== Sys2Proof/Tests/Slice0.lean ====
section
/-! SUPPORT. Sys2Proof/Tests/Slice0.lean: named tests. Every constructor's decoding is shown by a word written out from
the `encoding` column of spec/opcode_table.json; each well-formedness check refuses an ill-formed term; single steps and
host operations have the results that spec/95_test_vectors.md gives (the name of the test is the vector's); and each
obligation that has hypotheses has a state and operands that meet them, at a boundary of their range. -/

open Sys2Proof Sys2Proof.Machine

namespace Sys2Proof.Tests

section

set_option Elab.async false

/-! ### Helpers -/

/-- The default start state of 95_test_vectors.md section 0, with `bytes` at `pc`. -/
def code (pc : Addr) (bytes : List Byte) : State := { State.powerOn.storeBytes pc bytes with pc := pc }

/-- The same with nothing in memory. -/
def atPc (pc : Addr) : State := code pc []

/-- The same under TOP_POLICY = wrap. -/
def wrapAt (pc : Addr) : State := { atPc pc with topPolicy := .wrap }

/-- `s` with these bytes stored. -/
def storing (s : State) (cells : List (Addr × Byte)) : State := cells.foldl (fun t c => t.write c.1 c.2) s

/-- The step of `s` completes in `f s`. -/
def goes (s : State) (f : State → State) : Bool :=
  match step s with
  | .next t => decide (t = f s)
  | _ => false

/-- The step of `s` ends in the fault `r`. -/
def faults (s : State) (r : Fault) : Bool :=
  match step s with
  | .fault q => decide (q = r)
  | _ => false

/-- The step of `s` is refused. -/
def refuses (s : State) : Bool :=
  match step s with
  | .refused q => decide (q = .addressWrap)
  | _ => false

/-- `exec i s` completes. -/
def completes (i : Instr) (s : State) : Bool :=
  match exec i s with
  | .next _ => true
  | _ => false

/-- `bytes` decode to `i`, with `rest` left over. -/
def decodes (bytes : List Byte) (i : Instr) (rest : List Byte) : Bool :=
  match decode bytes with
  | .ok (j, r) => decide (j = i ∧ r = rest)
  | .error _ => false

/-- `bytes` are rejected with the reason `r`. -/
def rejects (bytes : List Byte) (r : DecodeReject) : Bool :=
  match decode bytes with
  | .ok _ => false
  | .error q => decide (q = r)

/-! ### Decoding (30_encoding.md R70, R92): every constructor, its opcode bit by bit, one byte 0xEE following -/


theorem test_decode_adc :
    (decodes [0b01101001#8, 0x34#8, 0xEE#8] (.adcImm 0x34#8) [0xEE#8] &&
      decodes [0b01100101#8, 0x34#8, 0xEE#8] (.adcZp 0x34#8) [0xEE#8] &&
      decodes [0b01110101#8, 0x34#8, 0xEE#8] (.adcZpx 0x34#8) [0xEE#8] &&
      decodes [0b01101101#8, 0x34#8, 0x12#8, 0xEE#8] (.adcAbs 0x1234#16) [0xEE#8] &&
      decodes [0b01111101#8, 0x34#8, 0x12#8, 0xEE#8] (.adcAbx 0x1234#16) [0xEE#8] &&
      decodes [0b01111001#8, 0x34#8, 0x12#8, 0xEE#8] (.adcAby 0x1234#16) [0xEE#8] &&
      decodes [0b01100001#8, 0x34#8, 0xEE#8] (.adcInx 0x34#8) [0xEE#8] &&
      decodes [0b01110001#8, 0x34#8, 0xEE#8] (.adcIny 0x34#8) [0xEE#8]) = true := by
  decide +kernel

theorem test_decode_and :
    (decodes [0b00101001#8, 0x34#8, 0xEE#8] (.andImm 0x34#8) [0xEE#8] &&
      decodes [0b00100101#8, 0x34#8, 0xEE#8] (.andZp 0x34#8) [0xEE#8] &&
      decodes [0b00110101#8, 0x34#8, 0xEE#8] (.andZpx 0x34#8) [0xEE#8] &&
      decodes [0b00101101#8, 0x34#8, 0x12#8, 0xEE#8] (.andAbs 0x1234#16) [0xEE#8] &&
      decodes [0b00111101#8, 0x34#8, 0x12#8, 0xEE#8] (.andAbx 0x1234#16) [0xEE#8] &&
      decodes [0b00111001#8, 0x34#8, 0x12#8, 0xEE#8] (.andAby 0x1234#16) [0xEE#8] &&
      decodes [0b00100001#8, 0x34#8, 0xEE#8] (.andInx 0x34#8) [0xEE#8] &&
      decodes [0b00110001#8, 0x34#8, 0xEE#8] (.andIny 0x34#8) [0xEE#8]) = true := by
  decide +kernel

theorem test_decode_asl :
    (decodes [0b00001010#8, 0xEE#8] .aslAcc [0xEE#8] &&
      decodes [0b00000110#8, 0x34#8, 0xEE#8] (.aslZp 0x34#8) [0xEE#8] &&
      decodes [0b00010110#8, 0x34#8, 0xEE#8] (.aslZpx 0x34#8) [0xEE#8] &&
      decodes [0b00001110#8, 0x34#8, 0x12#8, 0xEE#8] (.aslAbs 0x1234#16) [0xEE#8] &&
      decodes [0b00011110#8, 0x34#8, 0x12#8, 0xEE#8] (.aslAbx 0x1234#16) [0xEE#8]) = true := by
  decide +kernel

theorem test_decode_bcc :
    (decodes [0b10010000#8, 0x34#8, 0xEE#8] (.bcc 0x34#8) [0xEE#8]) = true := by
  decide +kernel

theorem test_decode_bcs :
    (decodes [0b10110000#8, 0x34#8, 0xEE#8] (.bcs 0x34#8) [0xEE#8]) = true := by
  decide +kernel

theorem test_decode_beq :
    (decodes [0b11110000#8, 0x34#8, 0xEE#8] (.beq 0x34#8) [0xEE#8]) = true := by
  decide +kernel

theorem test_decode_bit :
    (decodes [0b00100100#8, 0x34#8, 0xEE#8] (.bitZp 0x34#8) [0xEE#8] &&
      decodes [0b00101100#8, 0x34#8, 0x12#8, 0xEE#8] (.bitAbs 0x1234#16) [0xEE#8]) = true := by
  decide +kernel

theorem test_decode_bmi :
    (decodes [0b00110000#8, 0x34#8, 0xEE#8] (.bmi 0x34#8) [0xEE#8]) = true := by
  decide +kernel

theorem test_decode_bne :
    (decodes [0b11010000#8, 0x34#8, 0xEE#8] (.bne 0x34#8) [0xEE#8]) = true := by
  decide +kernel

theorem test_decode_bpl :
    (decodes [0b00010000#8, 0x34#8, 0xEE#8] (.bpl 0x34#8) [0xEE#8]) = true := by
  decide +kernel

theorem test_decode_brk :
    (decodes [0b00000000#8, 0xEE#8] .brk [0xEE#8]) = true := by
  decide +kernel

theorem test_decode_bvc :
    (decodes [0b01010000#8, 0x34#8, 0xEE#8] (.bvc 0x34#8) [0xEE#8]) = true := by
  decide +kernel

theorem test_decode_bvs :
    (decodes [0b01110000#8, 0x34#8, 0xEE#8] (.bvs 0x34#8) [0xEE#8]) = true := by
  decide +kernel

theorem test_decode_clc :
    (decodes [0b00011000#8, 0xEE#8] .clc [0xEE#8]) = true := by
  decide +kernel

theorem test_decode_cld :
    (decodes [0b11011000#8, 0xEE#8] .cld [0xEE#8]) = true := by
  decide +kernel

theorem test_decode_cli :
    (decodes [0b01011000#8, 0xEE#8] .cli [0xEE#8]) = true := by
  decide +kernel

theorem test_decode_clv :
    (decodes [0b10111000#8, 0xEE#8] .clv [0xEE#8]) = true := by
  decide +kernel

theorem test_decode_cmp :
    (decodes [0b11001001#8, 0x34#8, 0xEE#8] (.cmpImm 0x34#8) [0xEE#8] &&
      decodes [0b11000101#8, 0x34#8, 0xEE#8] (.cmpZp 0x34#8) [0xEE#8] &&
      decodes [0b11010101#8, 0x34#8, 0xEE#8] (.cmpZpx 0x34#8) [0xEE#8] &&
      decodes [0b11001101#8, 0x34#8, 0x12#8, 0xEE#8] (.cmpAbs 0x1234#16) [0xEE#8] &&
      decodes [0b11011101#8, 0x34#8, 0x12#8, 0xEE#8] (.cmpAbx 0x1234#16) [0xEE#8] &&
      decodes [0b11011001#8, 0x34#8, 0x12#8, 0xEE#8] (.cmpAby 0x1234#16) [0xEE#8] &&
      decodes [0b11000001#8, 0x34#8, 0xEE#8] (.cmpInx 0x34#8) [0xEE#8] &&
      decodes [0b11010001#8, 0x34#8, 0xEE#8] (.cmpIny 0x34#8) [0xEE#8]) = true := by
  decide +kernel

theorem test_decode_cpx :
    (decodes [0b11100000#8, 0x34#8, 0xEE#8] (.cpxImm 0x34#8) [0xEE#8] &&
      decodes [0b11100100#8, 0x34#8, 0xEE#8] (.cpxZp 0x34#8) [0xEE#8] &&
      decodes [0b11101100#8, 0x34#8, 0x12#8, 0xEE#8] (.cpxAbs 0x1234#16) [0xEE#8]) = true := by
  decide +kernel

theorem test_decode_cpy :
    (decodes [0b11000000#8, 0x34#8, 0xEE#8] (.cpyImm 0x34#8) [0xEE#8] &&
      decodes [0b11000100#8, 0x34#8, 0xEE#8] (.cpyZp 0x34#8) [0xEE#8] &&
      decodes [0b11001100#8, 0x34#8, 0x12#8, 0xEE#8] (.cpyAbs 0x1234#16) [0xEE#8]) = true := by
  decide +kernel

theorem test_decode_dec :
    (decodes [0b11000110#8, 0x34#8, 0xEE#8] (.decZp 0x34#8) [0xEE#8] &&
      decodes [0b11010110#8, 0x34#8, 0xEE#8] (.decZpx 0x34#8) [0xEE#8] &&
      decodes [0b11001110#8, 0x34#8, 0x12#8, 0xEE#8] (.decAbs 0x1234#16) [0xEE#8] &&
      decodes [0b11011110#8, 0x34#8, 0x12#8, 0xEE#8] (.decAbx 0x1234#16) [0xEE#8]) = true := by
  decide +kernel

theorem test_decode_dex :
    (decodes [0b11001010#8, 0xEE#8] .dex [0xEE#8]) = true := by
  decide +kernel

theorem test_decode_dey :
    (decodes [0b10001000#8, 0xEE#8] .dey [0xEE#8]) = true := by
  decide +kernel

theorem test_decode_eor :
    (decodes [0b01001001#8, 0x34#8, 0xEE#8] (.eorImm 0x34#8) [0xEE#8] &&
      decodes [0b01000101#8, 0x34#8, 0xEE#8] (.eorZp 0x34#8) [0xEE#8] &&
      decodes [0b01010101#8, 0x34#8, 0xEE#8] (.eorZpx 0x34#8) [0xEE#8] &&
      decodes [0b01001101#8, 0x34#8, 0x12#8, 0xEE#8] (.eorAbs 0x1234#16) [0xEE#8] &&
      decodes [0b01011101#8, 0x34#8, 0x12#8, 0xEE#8] (.eorAbx 0x1234#16) [0xEE#8] &&
      decodes [0b01011001#8, 0x34#8, 0x12#8, 0xEE#8] (.eorAby 0x1234#16) [0xEE#8] &&
      decodes [0b01000001#8, 0x34#8, 0xEE#8] (.eorInx 0x34#8) [0xEE#8] &&
      decodes [0b01010001#8, 0x34#8, 0xEE#8] (.eorIny 0x34#8) [0xEE#8]) = true := by
  decide +kernel

theorem test_decode_inc :
    (decodes [0b11100110#8, 0x34#8, 0xEE#8] (.incZp 0x34#8) [0xEE#8] &&
      decodes [0b11110110#8, 0x34#8, 0xEE#8] (.incZpx 0x34#8) [0xEE#8] &&
      decodes [0b11101110#8, 0x34#8, 0x12#8, 0xEE#8] (.incAbs 0x1234#16) [0xEE#8] &&
      decodes [0b11111110#8, 0x34#8, 0x12#8, 0xEE#8] (.incAbx 0x1234#16) [0xEE#8]) = true := by
  decide +kernel

theorem test_decode_inx :
    (decodes [0b11101000#8, 0xEE#8] .inx [0xEE#8]) = true := by
  decide +kernel

theorem test_decode_iny :
    (decodes [0b11001000#8, 0xEE#8] .iny [0xEE#8]) = true := by
  decide +kernel

theorem test_decode_jmp :
    (decodes [0b01001100#8, 0x34#8, 0x12#8, 0xEE#8] (.jmpAbs 0x1234#16) [0xEE#8] &&
      decodes [0b01101100#8, 0x34#8, 0x12#8, 0xEE#8] (.jmpInd 0x1234#16) [0xEE#8]) = true := by
  decide +kernel

theorem test_decode_jsr :
    (decodes [0b00100000#8, 0x34#8, 0x12#8, 0xEE#8] (.jsr 0x1234#16) [0xEE#8]) = true := by
  decide +kernel

theorem test_decode_lda :
    (decodes [0b10101001#8, 0x34#8, 0xEE#8] (.ldaImm 0x34#8) [0xEE#8] &&
      decodes [0b10100101#8, 0x34#8, 0xEE#8] (.ldaZp 0x34#8) [0xEE#8] &&
      decodes [0b10110101#8, 0x34#8, 0xEE#8] (.ldaZpx 0x34#8) [0xEE#8] &&
      decodes [0b10101101#8, 0x34#8, 0x12#8, 0xEE#8] (.ldaAbs 0x1234#16) [0xEE#8] &&
      decodes [0b10111101#8, 0x34#8, 0x12#8, 0xEE#8] (.ldaAbx 0x1234#16) [0xEE#8] &&
      decodes [0b10111001#8, 0x34#8, 0x12#8, 0xEE#8] (.ldaAby 0x1234#16) [0xEE#8] &&
      decodes [0b10100001#8, 0x34#8, 0xEE#8] (.ldaInx 0x34#8) [0xEE#8] &&
      decodes [0b10110001#8, 0x34#8, 0xEE#8] (.ldaIny 0x34#8) [0xEE#8]) = true := by
  decide +kernel

theorem test_decode_ldx :
    (decodes [0b10100010#8, 0x34#8, 0xEE#8] (.ldxImm 0x34#8) [0xEE#8] &&
      decodes [0b10100110#8, 0x34#8, 0xEE#8] (.ldxZp 0x34#8) [0xEE#8] &&
      decodes [0b10110110#8, 0x34#8, 0xEE#8] (.ldxZpy 0x34#8) [0xEE#8] &&
      decodes [0b10101110#8, 0x34#8, 0x12#8, 0xEE#8] (.ldxAbs 0x1234#16) [0xEE#8] &&
      decodes [0b10111110#8, 0x34#8, 0x12#8, 0xEE#8] (.ldxAby 0x1234#16) [0xEE#8]) = true := by
  decide +kernel

theorem test_decode_ldy :
    (decodes [0b10100000#8, 0x34#8, 0xEE#8] (.ldyImm 0x34#8) [0xEE#8] &&
      decodes [0b10100100#8, 0x34#8, 0xEE#8] (.ldyZp 0x34#8) [0xEE#8] &&
      decodes [0b10110100#8, 0x34#8, 0xEE#8] (.ldyZpx 0x34#8) [0xEE#8] &&
      decodes [0b10101100#8, 0x34#8, 0x12#8, 0xEE#8] (.ldyAbs 0x1234#16) [0xEE#8] &&
      decodes [0b10111100#8, 0x34#8, 0x12#8, 0xEE#8] (.ldyAbx 0x1234#16) [0xEE#8]) = true := by
  decide +kernel

theorem test_decode_lsr :
    (decodes [0b01001010#8, 0xEE#8] .lsrAcc [0xEE#8] &&
      decodes [0b01000110#8, 0x34#8, 0xEE#8] (.lsrZp 0x34#8) [0xEE#8] &&
      decodes [0b01010110#8, 0x34#8, 0xEE#8] (.lsrZpx 0x34#8) [0xEE#8] &&
      decodes [0b01001110#8, 0x34#8, 0x12#8, 0xEE#8] (.lsrAbs 0x1234#16) [0xEE#8] &&
      decodes [0b01011110#8, 0x34#8, 0x12#8, 0xEE#8] (.lsrAbx 0x1234#16) [0xEE#8]) = true := by
  decide +kernel

theorem test_decode_nop :
    (decodes [0b11101010#8, 0xEE#8] .nop [0xEE#8]) = true := by
  decide +kernel

theorem test_decode_ora :
    (decodes [0b00001001#8, 0x34#8, 0xEE#8] (.oraImm 0x34#8) [0xEE#8] &&
      decodes [0b00000101#8, 0x34#8, 0xEE#8] (.oraZp 0x34#8) [0xEE#8] &&
      decodes [0b00010101#8, 0x34#8, 0xEE#8] (.oraZpx 0x34#8) [0xEE#8] &&
      decodes [0b00001101#8, 0x34#8, 0x12#8, 0xEE#8] (.oraAbs 0x1234#16) [0xEE#8] &&
      decodes [0b00011101#8, 0x34#8, 0x12#8, 0xEE#8] (.oraAbx 0x1234#16) [0xEE#8] &&
      decodes [0b00011001#8, 0x34#8, 0x12#8, 0xEE#8] (.oraAby 0x1234#16) [0xEE#8] &&
      decodes [0b00000001#8, 0x34#8, 0xEE#8] (.oraInx 0x34#8) [0xEE#8] &&
      decodes [0b00010001#8, 0x34#8, 0xEE#8] (.oraIny 0x34#8) [0xEE#8]) = true := by
  decide +kernel

theorem test_decode_pha :
    (decodes [0b01001000#8, 0xEE#8] .pha [0xEE#8]) = true := by
  decide +kernel

theorem test_decode_php :
    (decodes [0b00001000#8, 0xEE#8] .php [0xEE#8]) = true := by
  decide +kernel

theorem test_decode_pla :
    (decodes [0b01101000#8, 0xEE#8] .pla [0xEE#8]) = true := by
  decide +kernel

theorem test_decode_plp :
    (decodes [0b00101000#8, 0xEE#8] .plp [0xEE#8]) = true := by
  decide +kernel

theorem test_decode_rol :
    (decodes [0b00101010#8, 0xEE#8] .rolAcc [0xEE#8] &&
      decodes [0b00100110#8, 0x34#8, 0xEE#8] (.rolZp 0x34#8) [0xEE#8] &&
      decodes [0b00110110#8, 0x34#8, 0xEE#8] (.rolZpx 0x34#8) [0xEE#8] &&
      decodes [0b00101110#8, 0x34#8, 0x12#8, 0xEE#8] (.rolAbs 0x1234#16) [0xEE#8] &&
      decodes [0b00111110#8, 0x34#8, 0x12#8, 0xEE#8] (.rolAbx 0x1234#16) [0xEE#8]) = true := by
  decide +kernel

theorem test_decode_ror :
    (decodes [0b01101010#8, 0xEE#8] .rorAcc [0xEE#8] &&
      decodes [0b01100110#8, 0x34#8, 0xEE#8] (.rorZp 0x34#8) [0xEE#8] &&
      decodes [0b01110110#8, 0x34#8, 0xEE#8] (.rorZpx 0x34#8) [0xEE#8] &&
      decodes [0b01101110#8, 0x34#8, 0x12#8, 0xEE#8] (.rorAbs 0x1234#16) [0xEE#8] &&
      decodes [0b01111110#8, 0x34#8, 0x12#8, 0xEE#8] (.rorAbx 0x1234#16) [0xEE#8]) = true := by
  decide +kernel

theorem test_decode_rti :
    (decodes [0b01000000#8, 0xEE#8] .rti [0xEE#8]) = true := by
  decide +kernel

theorem test_decode_rts :
    (decodes [0b01100000#8, 0xEE#8] .rts [0xEE#8]) = true := by
  decide +kernel

theorem test_decode_sbc :
    (decodes [0b11101001#8, 0x34#8, 0xEE#8] (.sbcImm 0x34#8) [0xEE#8] &&
      decodes [0b11100101#8, 0x34#8, 0xEE#8] (.sbcZp 0x34#8) [0xEE#8] &&
      decodes [0b11110101#8, 0x34#8, 0xEE#8] (.sbcZpx 0x34#8) [0xEE#8] &&
      decodes [0b11101101#8, 0x34#8, 0x12#8, 0xEE#8] (.sbcAbs 0x1234#16) [0xEE#8] &&
      decodes [0b11111101#8, 0x34#8, 0x12#8, 0xEE#8] (.sbcAbx 0x1234#16) [0xEE#8] &&
      decodes [0b11111001#8, 0x34#8, 0x12#8, 0xEE#8] (.sbcAby 0x1234#16) [0xEE#8] &&
      decodes [0b11100001#8, 0x34#8, 0xEE#8] (.sbcInx 0x34#8) [0xEE#8] &&
      decodes [0b11110001#8, 0x34#8, 0xEE#8] (.sbcIny 0x34#8) [0xEE#8]) = true := by
  decide +kernel

theorem test_decode_sec :
    (decodes [0b00111000#8, 0xEE#8] .sec [0xEE#8]) = true := by
  decide +kernel

theorem test_decode_sed :
    (decodes [0b11111000#8, 0xEE#8] .sed [0xEE#8]) = true := by
  decide +kernel

theorem test_decode_sei :
    (decodes [0b01111000#8, 0xEE#8] .sei [0xEE#8]) = true := by
  decide +kernel

theorem test_decode_sta :
    (decodes [0b10000101#8, 0x34#8, 0xEE#8] (.staZp 0x34#8) [0xEE#8] &&
      decodes [0b10010101#8, 0x34#8, 0xEE#8] (.staZpx 0x34#8) [0xEE#8] &&
      decodes [0b10001101#8, 0x34#8, 0x12#8, 0xEE#8] (.staAbs 0x1234#16) [0xEE#8] &&
      decodes [0b10011101#8, 0x34#8, 0x12#8, 0xEE#8] (.staAbx 0x1234#16) [0xEE#8] &&
      decodes [0b10011001#8, 0x34#8, 0x12#8, 0xEE#8] (.staAby 0x1234#16) [0xEE#8] &&
      decodes [0b10000001#8, 0x34#8, 0xEE#8] (.staInx 0x34#8) [0xEE#8] &&
      decodes [0b10010001#8, 0x34#8, 0xEE#8] (.staIny 0x34#8) [0xEE#8]) = true := by
  decide +kernel

theorem test_decode_stx :
    (decodes [0b10000110#8, 0x34#8, 0xEE#8] (.stxZp 0x34#8) [0xEE#8] &&
      decodes [0b10010110#8, 0x34#8, 0xEE#8] (.stxZpy 0x34#8) [0xEE#8] &&
      decodes [0b10001110#8, 0x34#8, 0x12#8, 0xEE#8] (.stxAbs 0x1234#16) [0xEE#8]) = true := by
  decide +kernel

theorem test_decode_sty :
    (decodes [0b10000100#8, 0x34#8, 0xEE#8] (.styZp 0x34#8) [0xEE#8] &&
      decodes [0b10010100#8, 0x34#8, 0xEE#8] (.styZpx 0x34#8) [0xEE#8] &&
      decodes [0b10001100#8, 0x34#8, 0x12#8, 0xEE#8] (.styAbs 0x1234#16) [0xEE#8]) = true := by
  decide +kernel

theorem test_decode_tax :
    (decodes [0b10101010#8, 0xEE#8] .tax [0xEE#8]) = true := by
  decide +kernel

theorem test_decode_tay :
    (decodes [0b10101000#8, 0xEE#8] .tay [0xEE#8]) = true := by
  decide +kernel

theorem test_decode_tsx :
    (decodes [0b10111010#8, 0xEE#8] .tsx [0xEE#8]) = true := by
  decide +kernel

theorem test_decode_txa :
    (decodes [0b10001010#8, 0xEE#8] .txa [0xEE#8]) = true := by
  decide +kernel

theorem test_decode_txs :
    (decodes [0b10011010#8, 0xEE#8] .txs [0xEE#8]) = true := by
  decide +kernel

theorem test_decode_tya :
    (decodes [0b10011000#8, 0xEE#8] .tya [0xEE#8]) = true := by
  decide +kernel

theorem test_decode_rejects :
    (rejects [] .noBytes && rejects [0b11101011#8, 0x00#8] (.illegalOpcode 0xEB#8) &&
      rejects [0b00000010#8] (.illegalOpcode 0x02#8) && rejects [0b10101001#8] (.truncated 0xA9#8) &&
      rejects [0b10101101#8, 0x00#8] (.truncated 0xAD#8)) = true := by
  decide +kernel

theorem test_encode_low_byte_first : encode (.jmpInd 0x30FF#16) = [0x6C#8, 0xFF#8, 0x30#8] := by decide +kernel

/-- The table's numbering: bit 0 is the least significant bit of the first byte, the bits from `nbits` up are 0. -/
theorem test_decodeTableWord :
    decodeTableWord 24 0x1234AD = some (.ldaAbs 0x1234#16) ∧ decodeTableWord 8 0x1234AD = some (.ldaAbs 0x0000#16) ∧
      decodeTableWord 16 0xF9D0 = some (.bne 0xF9#8) ∧ decodeTableWord 8 0xEB = none := by
  decide +kernel

theorem test_withFetchWord : goes (State.reset.withFetchWord 16 0x42A9) (fun s => { s with a := 0x42#8, pc := 2#16 }) =
    true := by
  decide +kernel

/-! ### Well-formedness: each check refuses an ill-formed term -/

theorem test_form_not_allowed : formAllowed .sta .imm = false ∧ formAllowed .jmp .abx = false ∧
    formAllowed .ldx .zpx = false ∧ formAllowed .asl .acc = true := by
  decide +kernel

theorem test_descriptor_wrong_len :
    Descriptor.lenMatchesForm
      { code := 0xAD#8, mnemonic := .lda, form := .abs, len := 2, cycles := 4, mode := .absolute } = false := by
  decide +kernel

theorem test_descriptor_wrong_mode :
    Descriptor.modeMatchesForm
      { code := 0xB5#8, mnemonic := .lda, form := .zpx, len := 2, cycles := 4, mode := .zeroPageY } = false := by
  decide +kernel

theorem test_descriptor_wrong_form :
    Descriptor.wellFormed
      { code := 0x89#8, mnemonic := .sta, form := .imm, len := 2, cycles := 2, mode := .immediate } = false := by
  decide +kernel

/-- The two rows of the source's draft table for 0x91 (90_conflicts.md, 95_test_vectors.md E10). -/
theorem test_code_twice :
    codesDistinct [
      { code := 0x91#8, mnemonic := .sta, form := .iny, len := 2, cycles := 6, mode := .indirectY },
      { code := 0x91#8, mnemonic := .tax, form := .imp, len := 1, cycles := 2, mode := .noneAddressing }] = false := by
  decide +kernel

theorem test_table_with_a_bad_row :
    tableWellFormed
      [{ code := 0xEA#8, mnemonic := .nop, form := .imp, len := 2, cycles := 2, mode := .noneAddressing }] = false := by
  decide +kernel

theorem test_instruction_well_formed : (Instr.staIny 0x10#8).wellFormed = true := by decide +kernel

/-! ### Single steps (95_test_vectors.md section 2) -/

/-! Load and store -/

/-- `LDA #$7F` (R110). -/
theorem test_V3 :
    goes { code 0x8000#16 [0xA9#8, 0x7F#8] with p := 0xB2#8 }
      (fun s => { s with a := 0x7F#8, p := 0x30#8, pc := 0x8002#16 }) = true := by
  decide +kernel

/-- `LDA $80,X` (R110, R82). -/
theorem test_V4 :
    goes { storing (code 0x8000#16 [0xB5#8, 0x80#8]) [(0x007F#16, 0x11#8), (0x017F#16, 0x22#8)] with x := 0xFF#8 }
      (fun s => { s with a := 0x11#8, pc := 0x8002#16 }) = true := by
  decide +kernel

/-- `LDX $F0,Y` (R111, R83). -/
theorem test_V5 :
    goes { storing (code 0x8000#16 [0xB6#8, 0xF0#8]) [(0x0010#16, 0x33#8), (0x0110#16, 0x44#8)] with y := 0x20#8 }
      (fun s => { s with x := 0x33#8, pc := 0x8002#16 }) = true := by
  decide +kernel

/-- `LDY $10,X` (R112, R82). -/
theorem test_V6 :
    goes { (code 0x8000#16 [0xB4#8, 0x10#8]).write 0x0015#16 0x99#8 with x := 0x05#8 }
      (fun s => { s with y := 0x99#8, p := 0xB0#8, pc := 0x8002#16 }) = true := by
  decide +kernel

/-- `LDA $12FF,X` (R110, R85). -/
theorem test_V7 :
    goes { (code 0x8000#16 [0xBD#8, 0xFF#8, 0x12#8]).write 0x1300#16 0x5A#8 with x := 0x01#8 }
      (fun s => { s with a := 0x5A#8, pc := 0x8003#16 }) = true := by
  decide +kernel

/-- `LDA $FFF0,Y` (R110, R86). -/
theorem test_V9 :
    goes { (code 0x8000#16 [0xB9#8, 0xF0#8, 0xFF#8]).write 0x0010#16 0x66#8 with y := 0x20#8 }
      (fun s => { s with a := 0x66#8, pc := 0x8003#16 }) = true := by
  decide +kernel

/-- `LDA ($FE,X)` (R110, R88). -/
theorem test_V10 :
    goes { storing (code 0x8000#16 [0xA1#8, 0xFE#8])
        [(0x00FF#16, 0x34#8), (0x0000#16, 0x12#8), (0x0100#16, 0x99#8), (0x1234#16, 0xAB#8)] with x := 0x01#8 }
      (fun s => { s with a := 0xAB#8, p := 0xB0#8, pc := 0x8002#16 }) = true := by
  decide +kernel

/-- `LDA ($FF),Y` (R110, R89). -/
theorem test_V12 :
    goes { storing (code 0x8000#16 [0xB1#8, 0xFF#8])
        [(0x00FF#16, 0xF8#8), (0x0000#16, 0x12#8), (0x0100#16, 0x99#8), (0x1308#16, 0xCD#8)] with y := 0x10#8 }
      (fun s => { s with a := 0xCD#8, p := 0xB0#8, pc := 0x8002#16 }) = true := by
  decide +kernel

/-- `LDA ($10),Y` (R110, R89). -/
theorem test_V13 :
    goes { storing (code 0x8000#16 [0xB1#8, 0x10#8])
        [(0x0010#16, 0x02#8), (0x0011#16, 0xFF#8), (0x0001#16, 0x3C#8)] with y := 0xFF#8 }
      (fun s => { s with a := 0x3C#8, pc := 0x8002#16 }) = true := by
  decide +kernel

/-- `LDX $0300` (R111, R84). -/
theorem test_V14 :
    goes { (code 0x8000#16 [0xAE#8, 0x00#8, 0x03#8]).write 0x0300#16 0x00#8 with x := 0x05#8 }
      (fun s => { s with x := 0x00#8, p := 0x32#8, pc := 0x8003#16 }) = true := by
  decide +kernel

/-- `STA $10` (R113, R81). -/
theorem test_V15 :
    goes { code 0x8000#16 [0x85#8, 0x10#8] with p := 0xB1#8 }
      (fun s => { s.write 0x0010#16 0x00#8 with pc := 0x8002#16 }) = true := by
  decide +kernel

/-- `STA $1000,X` (R113, R85). -/
theorem test_V16 :
    goes { code 0x8000#16 [0x9D#8, 0x00#8, 0x10#8] with a := 0x80#8, x := 0x10#8 }
      (fun s => { s.write 0x1010#16 0x80#8 with pc := 0x8003#16 }) = true := by
  decide +kernel

/-- `STX $10,Y` (R114, R83). -/
theorem test_V17 :
    goes { code 0x8000#16 [0x96#8, 0x10#8] with x := 0xAA#8, y := 0xF8#8 }
      (fun s => { s.write 0x0008#16 0xAA#8 with pc := 0x8002#16 }) = true := by
  decide +kernel

/-- `STY $2000` (R115, R84). -/
theorem test_V18 :
    goes { code 0x8000#16 [0x8C#8, 0x00#8, 0x20#8] with y := 0x01#8 }
      (fun s => { s.write 0x2000#16 0x01#8 with pc := 0x8003#16 }) = true := by
  decide +kernel

/-- `STA ($10),Y` (R113, R89). -/
theorem test_V19 :
    goes { storing (code 0x8000#16 [0x91#8, 0x10#8])
        [(0x0010#16, 0x00#8), (0x0011#16, 0x02#8)] with a := 0xAB#8, y := 0x05#8 }
      (fun s => { s.write 0x0205#16 0xAB#8 with pc := 0x8002#16 }) = true := by
  decide +kernel

/-- `STA ($10,X)` (R113, R88). -/
theorem test_V20 :
    goes { storing (code 0x8000#16 [0x81#8, 0x10#8])
        [(0x0000#16, 0x50#8), (0x0001#16, 0x03#8)] with a := 0xCD#8, x := 0xF0#8 }
      (fun s => { s.write 0x0350#16 0xCD#8 with pc := 0x8002#16 }) = true := by
  decide +kernel

/-! Arithmetic -/

/-- `ADC #$80` (R120). -/
theorem test_V24 :
    goes { code 0x8000#16 [0x69#8, 0x80#8] with a := 0x80#8 }
      (fun s => { s with a := 0x00#8, p := 0x73#8, pc := 0x8002#16 }) = true := by
  decide +kernel

/-- `ADC #$01` (R120). -/
theorem test_V27 :
    goes { code 0x8000#16 [0x69#8, 0x01#8] with a := 0x09#8, p := 0x38#8 }
      (fun s => { s with a := 0x0A#8, pc := 0x8002#16 }) = true := by
  decide +kernel

/-- `ADC $10` (R120, R81). -/
theorem test_V28 :
    goes { (code 0x8000#16 [0x65#8, 0x10#8]).write 0x0010#16 0x22#8 with a := 0x10#8 }
      (fun s => { s with a := 0x32#8, pc := 0x8002#16 }) = true := by
  decide +kernel

/-- `SBC #$F0` (R121). -/
theorem test_V29 :
    goes { code 0x8000#16 [0xE9#8, 0xF0#8] with a := 0x50#8, p := 0x31#8 }
      (fun s => { s with a := 0x60#8, p := 0x30#8, pc := 0x8002#16 }) = true := by
  decide +kernel

/-- `SBC #$01` (R121). -/
theorem test_V33 :
    goes { code 0x8000#16 [0xE9#8, 0x01#8] with a := 0x80#8, p := 0x31#8 }
      (fun s => { s with a := 0x7F#8, p := 0x71#8, pc := 0x8002#16 }) = true := by
  decide +kernel

/-- `SBC #$01` (R121). -/
theorem test_V35 :
    goes { code 0x8000#16 [0xE9#8, 0x01#8] with a := 0x10#8, p := 0x39#8 }
      (fun s => { s with a := 0x0F#8, pc := 0x8002#16 }) = true := by
  decide +kernel

/-! Logic and BIT -/

/-- `AND #$0F` (R125). -/
theorem test_V36 :
    goes { code 0x8000#16 [0x29#8, 0x0F#8] with a := 0xF0#8 }
      (fun s => { s with a := 0x00#8, p := 0x32#8, pc := 0x8002#16 }) = true := by
  decide +kernel

/-- `AND #$F0` (R125). -/
theorem test_V37 :
    goes { code 0x8000#16 [0x29#8, 0xF0#8] with a := 0x9C#8 }
      (fun s => { s with a := 0x90#8, p := 0xB0#8, pc := 0x8002#16 }) = true := by
  decide +kernel

/-- `ORA #$80` (R126). -/
theorem test_V38 :
    goes { code 0x8000#16 [0x09#8, 0x80#8] with a := 0x01#8 }
      (fun s => { s with a := 0x81#8, p := 0xB0#8, pc := 0x8002#16 }) = true := by
  decide +kernel

/-- `EOR #$FF` (R127). -/
theorem test_V40 :
    goes { code 0x8000#16 [0x49#8, 0xFF#8] with a := 0xFF#8 }
      (fun s => { s with a := 0x00#8, p := 0x32#8, pc := 0x8002#16 }) = true := by
  decide +kernel

/-- `EOR #$FF` (R127). -/
theorem test_V41 :
    goes { code 0x8000#16 [0x49#8, 0xFF#8] with a := 0x0F#8 }
      (fun s => { s with a := 0xF0#8, p := 0xB0#8, pc := 0x8002#16 }) = true := by
  decide +kernel

/-- `BIT $10` (R128). -/
theorem test_V42 :
    goes { (code 0x8000#16 [0x24#8, 0x10#8]).write 0x0010#16 0xC0#8 with a := 0x01#8 }
      (fun s => { s with p := 0xF2#8, pc := 0x8002#16 }) = true := by
  decide +kernel

/-- `BIT $0300` (R128). -/
theorem test_V43 :
    goes { (code 0x8000#16 [0x2C#8, 0x00#8, 0x03#8]).write 0x0300#16 0x3F#8 with a := 0xFF#8, p := 0xF2#8 }
      (fun s => { s with p := 0x30#8, pc := 0x8003#16 }) = true := by
  decide +kernel

/-- `BIT $10` (R128). -/
theorem test_V44 :
    goes { (code 0x8000#16 [0x24#8, 0x10#8]).write 0x0010#16 0x80#8 with a := 0x80#8 }
      (fun s => { s with p := 0xB0#8, pc := 0x8002#16 }) = true := by
  decide +kernel

/-! Shifts and rotates -/

/-- `ASL A` (R130). -/
theorem test_V45 :
    goes { code 0x8000#16 [0x0A#8] with a := 0x80#8 }
      (fun s => { s with a := 0x00#8, p := 0x33#8, pc := 0x8001#16 }) = true := by
  decide +kernel

/-- `ASL A` (R130). -/
theorem test_V46 :
    goes { code 0x8000#16 [0x0A#8] with a := 0x41#8, p := 0x31#8 }
      (fun s => { s with a := 0x82#8, p := 0xB0#8, pc := 0x8001#16 }) = true := by
  decide +kernel

/-- `LSR A` (R131). -/
theorem test_V47 :
    goes { code 0x8000#16 [0x4A#8] with a := 0x01#8 }
      (fun s => { s with a := 0x00#8, p := 0x33#8, pc := 0x8001#16 }) = true := by
  decide +kernel

/-- `ROL A` (R132). -/
theorem test_V49 :
    goes { code 0x8000#16 [0x2A#8] with a := 0x81#8 }
      (fun s => { s with a := 0x02#8, p := 0x31#8, pc := 0x8001#16 }) = true := by
  decide +kernel

/-- `ROL A` (R132). -/
theorem test_V50 :
    goes { code 0x8000#16 [0x2A#8] with a := 0x02#8, p := 0x31#8 }
      (fun s => { s with a := 0x05#8, p := 0x30#8, pc := 0x8001#16 }) = true := by
  decide +kernel

/-- `ROR A` (R133). -/
theorem test_V52 :
    goes { code 0x8000#16 [0x6A#8] with a := 0x01#8 }
      (fun s => { s with a := 0x00#8, p := 0x33#8, pc := 0x8001#16 }) = true := by
  decide +kernel

/-- `ROR A` (R133). -/
theorem test_V53 :
    goes { code 0x8000#16 [0x6A#8] with p := 0x31#8 }
      (fun s => { s with a := 0x80#8, p := 0xB0#8, pc := 0x8001#16 }) = true := by
  decide +kernel

/-- `ASL $10` (R130). -/
theorem test_V54 :
    goes { (code 0x8000#16 [0x06#8, 0x10#8]).write 0x0010#16 0x40#8 with a := 0x77#8 }
      (fun s => { s.write 0x0010#16 0x80#8 with p := 0xB0#8, pc := 0x8002#16 }) = true := by
  decide +kernel

/-- `LSR $0300` (R131). -/
theorem test_V55 :
    goes ((code 0x8000#16 [0x4E#8, 0x00#8, 0x03#8]).write 0x0300#16 0x03#8)
      (fun s => { s.write 0x0300#16 0x01#8 with p := 0x31#8, pc := 0x8003#16 }) = true := by
  decide +kernel

/-- `ROL $10,X` (R132). -/
theorem test_V56 :
    goes { (code 0x8000#16 [0x36#8, 0x10#8]).write 0x0011#16 0x80#8 with x := 0x01#8, p := 0x31#8 }
      (fun s => { s.write 0x0011#16 0x01#8 with pc := 0x8002#16 }) = true := by
  decide +kernel

/-- `ROR $0300,X` (R133). -/
theorem test_V57 :
    goes { (code 0x8000#16 [0x7E#8, 0x00#8, 0x03#8]).write 0x0302#16 0x02#8 with x := 0x02#8, p := 0x31#8 }
      (fun s => { s.write 0x0302#16 0x81#8 with p := 0xB0#8, pc := 0x8003#16 }) = true := by
  decide +kernel

/-! Compare -/

/-- `CMP #$02` (R135). -/
theorem test_V60 :
    goes { code 0x8000#16 [0xC9#8, 0x02#8] with a := 0x01#8 }
      (fun s => { s with p := 0xB0#8, pc := 0x8002#16 }) = true := by
  decide +kernel

/-- `CMP #$FF` (R135). -/
theorem test_V61 : goes (code 0x8000#16 [0xC9#8, 0xFF#8]) (fun s => { s with pc := 0x8002#16 }) = true := by
  decide +kernel

/-- `CPX #$7F` (R136). -/
theorem test_V64 :
    goes { code 0x8000#16 [0xE0#8, 0x7F#8] with x := 0x80#8 }
      (fun s => { s with p := 0x31#8, pc := 0x8002#16 }) = true := by
  decide +kernel

/-- `CPX $10` (R136). -/
theorem test_V65 :
    goes { (code 0x8000#16 [0xE4#8, 0x10#8]).write 0x0010#16 0x10#8 with x := 0x10#8 }
      (fun s => { s with p := 0x33#8, pc := 0x8002#16 }) = true := by
  decide +kernel

/-- `CPY #$01` (R137). -/
theorem test_V66 :
    goes (code 0x8000#16 [0xC0#8, 0x01#8])
      (fun s => { s with p := 0xB0#8, pc := 0x8002#16 }) = true := by
  decide +kernel

/-- `CPY $0300` (R137). -/
theorem test_V67 :
    goes { (code 0x8000#16 [0xCC#8, 0x00#8, 0x03#8]).write 0x0300#16 0x30#8 with y := 0x40#8 }
      (fun s => { s with p := 0x31#8, pc := 0x8003#16 }) = true := by
  decide +kernel

/-! Increment and decrement -/

/-- `DEX` (R144). -/
theorem test_V68 :
    goes (code 0x8000#16 [0xCA#8])
      (fun s => { s with x := 0xFF#8, p := 0xB0#8, pc := 0x8001#16 }) = true := by
  decide +kernel

/-- `INX` (R142). -/
theorem test_V69 :
    goes { code 0x8000#16 [0xE8#8] with x := 0xFF#8 }
      (fun s => { s with x := 0x00#8, p := 0x32#8, pc := 0x8001#16 }) = true := by
  decide +kernel

/-- `DEY` (R145). -/
theorem test_V70 :
    goes (code 0x8000#16 [0x88#8])
      (fun s => { s with y := 0xFF#8, p := 0xB0#8, pc := 0x8001#16 }) = true := by
  decide +kernel

/-- `INY` (R143). -/
theorem test_V71 :
    goes { code 0x8000#16 [0xC8#8] with y := 0xFF#8 }
      (fun s => { s with y := 0x00#8, p := 0x32#8, pc := 0x8001#16 }) = true := by
  decide +kernel

/-- `INY` (R143). -/
theorem test_V72 :
    goes { code 0x8000#16 [0xC8#8] with y := 0x7F#8 }
      (fun s => { s with y := 0x80#8, p := 0xB0#8, pc := 0x8001#16 }) = true := by
  decide +kernel

/-- `INC $10` (R140). -/
theorem test_V74 :
    goes ((code 0x8000#16 [0xE6#8, 0x10#8]).write 0x0010#16 0xFF#8)
      (fun s => { s.write 0x0010#16 0x00#8 with p := 0x32#8, pc := 0x8002#16 }) = true := by
  decide +kernel

/-- `DEC $10` (R141). -/
theorem test_V75 :
    goes ((code 0x8000#16 [0xC6#8, 0x10#8]).write 0x0010#16 0x00#8)
      (fun s => { s.write 0x0010#16 0xFF#8 with p := 0xB0#8, pc := 0x8002#16 }) = true := by
  decide +kernel

/-- `INC $0300,X` (R140). -/
theorem test_V76 :
    goes { (code 0x8000#16 [0xFE#8, 0x00#8, 0x03#8]).write 0x0301#16 0x7F#8 with x := 0x01#8 }
      (fun s => { s.write 0x0301#16 0x80#8 with p := 0xB0#8, pc := 0x8003#16 }) = true := by
  decide +kernel

/-- `DEC $FF,X` (R141). -/
theorem test_V77 :
    goes { (code 0x8000#16 [0xD6#8, 0xFF#8]).write 0x0001#16 0x01#8 with x := 0x02#8 }
      (fun s => { s.write 0x0001#16 0x00#8 with p := 0x32#8, pc := 0x8002#16 }) = true := by
  decide +kernel

/-! Branches -/

/-- `BNE +5` (R154). -/
theorem test_V79 :
    goes { code 0x8000#16 [0xD0#8, 0x05#8] with p := 0x32#8 }
      (fun s => { s with pc := 0x8002#16 }) = true := by
  decide +kernel

/-- `BEQ -5` (R153). -/
theorem test_V80 :
    goes { code 0x8000#16 [0xF0#8, 0xFB#8] with p := 0x32#8 }
      (fun s => { s with pc := 0x7FFD#16 }) = true := by
  decide +kernel

/-- `BEQ -5` (R153). -/
theorem test_V81 : goes (code 0x8000#16 [0xF0#8, 0xFB#8]) (fun s => { s with pc := 0x8002#16 }) = true := by
  decide +kernel

/-- `BCC -1` (R151). -/
theorem test_V82 : goes (code 0x8000#16 [0x90#8, 0xFF#8]) (fun s => { s with pc := 0x8001#16 }) = true := by
  decide +kernel

/-- `BCC -2` (R151). -/
theorem test_V83 : goes (code 0x8000#16 [0x90#8, 0xFE#8]) (fun s => { s with pc := 0x8000#16 }) = true := by
  decide +kernel

/-- `BCS +16` (R152). -/
theorem test_V84 : goes (code 0x8000#16 [0xB0#8, 0x10#8]) (fun s => { s with pc := 0x8002#16 }) = true := by
  decide +kernel

/-- `BCS +127` (R152). -/
theorem test_V85 :
    goes { code 0x8000#16 [0xB0#8, 0x7F#8] with p := 0x31#8 }
      (fun s => { s with pc := 0x8081#16 }) = true := by
  decide +kernel

/-- `BMI -128` (R155). -/
theorem test_V86 :
    goes { code 0x8000#16 [0x30#8, 0x80#8] with p := 0xB0#8 }
      (fun s => { s with pc := 0x7F82#16 }) = true := by
  decide +kernel

/-- `BPL +0` (R156). -/
theorem test_V87 : goes (code 0x8000#16 [0x10#8, 0x00#8]) (fun s => { s with pc := 0x8002#16 }) = true := by
  decide +kernel

/-- `BMI +16` (R155). -/
theorem test_V89 : goes (code 0x8000#16 [0x30#8, 0x10#8]) (fun s => { s with pc := 0x8002#16 }) = true := by
  decide +kernel

/-- `BVC +2` (R157). -/
theorem test_V90 : goes (code 0x8000#16 [0x50#8, 0x02#8]) (fun s => { s with pc := 0x8004#16 }) = true := by
  decide +kernel

/-- `BVC +2` (R157). -/
theorem test_V91 :
    goes { code 0x8000#16 [0x50#8, 0x02#8] with p := 0x70#8 }
      (fun s => { s with pc := 0x8002#16 }) = true := by
  decide +kernel

/-- `BVS +2` (R158). -/
theorem test_V92 :
    goes { code 0x8000#16 [0x70#8, 0x02#8] with p := 0x70#8 }
      (fun s => { s with pc := 0x8004#16 }) = true := by
  decide +kernel

/-- `BVS +2` (R158). -/
theorem test_V93 : goes (code 0x8000#16 [0x70#8, 0x02#8]) (fun s => { s with pc := 0x8002#16 }) = true := by
  decide +kernel

/-- `BNE -128` (R154, R16). -/
theorem test_V95 :
    goes { code 0x0010#16 [0xD0#8, 0x80#8] with topPolicy := .wrap }
      (fun s => { s with pc := 0xFF92#16 }) = true := by
  decide +kernel

/-! Jumps and subroutines -/

/-- `JMP $1234` (R160). -/
theorem test_V96 : goes (code 0x8000#16 [0x4C#8, 0x34#8, 0x12#8]) (fun s => { s with pc := 0x1234#16 }) = true := by
  decide +kernel

/-- `JMP $8001` (R160, R76). -/
theorem test_V97 : goes (code 0x8000#16 [0x4C#8, 0x01#8, 0x80#8]) (fun s => { s with pc := 0x8001#16 }) = true := by
  decide +kernel

/-- `JMP ($3020)` (R160, R87). -/
theorem test_V98 :
    goes (storing (code 0x8000#16 [0x6C#8, 0x20#8, 0x30#8]) [(0x3020#16, 0x78#8), (0x3021#16, 0x56#8)])
      (fun s => { s with pc := 0x5678#16 }) = true := by
  decide +kernel

/-- `JMP ($30FF)` (R160, R87). -/
theorem test_V99 :
    goes (storing (code 0x8000#16 [0x6C#8, 0xFF#8, 0x30#8])
        [(0x30FF#16, 0x34#8), (0x3000#16, 0x12#8), (0x3100#16, 0x56#8)])
      (fun s => { s with pc := 0x1234#16 }) = true := by
  decide +kernel

/-- `JMP ($FFFF)` (R160, R87). -/
theorem test_V100 :
    goes (storing (code 0x8000#16 [0x6C#8, 0xFF#8, 0xFF#8]) [(0xFFFF#16, 0x11#8), (0xFF00#16, 0x22#8)])
      (fun s => { s with pc := 0x2211#16 }) = true := by
  decide +kernel

/-- `JSR $1234` (R161). -/
theorem test_V101 :
    goes (code 0x8000#16 [0x20#8, 0x34#8, 0x12#8])
      (fun s => { (s.write 0x01FF#16 0x80#8).write 0x01FE#16 0x02#8 with sp := 0xFD#8, pc := 0x1234#16 }) = true := by
  decide +kernel

/-- `JSR $1234` (R161). -/
theorem test_V102 :
    goes { code 0x8000#16 [0x20#8, 0x34#8, 0x12#8] with sp := 0x00#8 }
      (fun s => { (s.write 0x0100#16 0x80#8).write 0x01FF#16 0x02#8 with sp := 0xFE#8, pc := 0x1234#16 }) = true := by
  decide +kernel

/-- `RTS` (R162). -/
theorem test_V104 :
    goes (storing (code 0x8000#16 [0x60#8]) [(0x0100#16, 0xFF#8), (0x0101#16, 0x12#8)])
      (fun s => { s with sp := 0x01#8, pc := 0x1300#16 }) = true := by
  decide +kernel

/-- `RTI` (R163). -/
theorem test_V105 :
    goes { storing (code 0x8000#16 [0x40#8])
        [(0x01FD#16, 0xCF#8), (0x01FE#16, 0x34#8), (0x01FF#16, 0x12#8)] with sp := 0xFC#8 }
      (fun s => { s with p := 0xFF#8, sp := 0xFF#8, pc := 0x1234#16 }) = true := by
  decide +kernel

/-- `RTI` (R163). -/
theorem test_V106 :
    goes { storing (code 0x8000#16 [0x40#8])
        [(0x01FD#16, 0x00#8), (0x01FE#16, 0x00#8), (0x01FF#16, 0x90#8)] with p := 0xFF#8, sp := 0xFC#8 }
      (fun s => { s with p := 0x30#8, sp := 0xFF#8, pc := 0x9000#16 }) = true := by
  decide +kernel

/-! Stack operations -/

/-- `PHA` (R165). -/
theorem test_V107 :
    goes { code 0x8000#16 [0x48#8] with a := 0x42#8 }
      (fun s => { s.write 0x01FF#16 0x42#8 with sp := 0xFE#8, pc := 0x8001#16 }) = true := by
  decide +kernel

/-- `PHA` (R165). -/
theorem test_V108 :
    goes { code 0x8000#16 [0x48#8] with a := 0x42#8, sp := 0x00#8 }
      (fun s => { s.write 0x0100#16 0x42#8 with sp := 0xFF#8, pc := 0x8001#16 }) = true := by
  decide +kernel

/-- `PHP` (R166). -/
theorem test_V109 :
    goes { code 0x8000#16 [0x08#8] with p := 0xF3#8 }
      (fun s => { s.write 0x01FF#16 0xF3#8 with sp := 0xFE#8, pc := 0x8001#16 }) = true := by
  decide +kernel

/-- `PHP` (R166). -/
theorem test_V110 :
    goes (code 0x8000#16 [0x08#8])
      (fun s => { s.write 0x01FF#16 0x30#8 with sp := 0xFE#8, pc := 0x8001#16 }) = true := by
  decide +kernel

/-- `PLA` (R167). -/
theorem test_V111 :
    goes { (code 0x8000#16 [0x68#8]).write 0x01FF#16 0x00#8 with a := 0x11#8, sp := 0xFE#8 }
      (fun s => { s with a := 0x00#8, p := 0x32#8, sp := 0xFF#8, pc := 0x8001#16 }) = true := by
  decide +kernel

/-- `PLA` (R167). -/
theorem test_V112 :
    goes ((code 0x8000#16 [0x68#8]).write 0x0100#16 0x80#8)
      (fun s => { s with a := 0x80#8, p := 0xB0#8, sp := 0x00#8, pc := 0x8001#16 }) = true := by
  decide +kernel

/-- `PLP` (R168). -/
theorem test_V113 :
    goes { (code 0x8000#16 [0x28#8]).write 0x01FF#16 0xC3#8 with sp := 0xFE#8 }
      (fun s => { s with p := 0xF3#8, sp := 0xFF#8, pc := 0x8001#16 }) = true := by
  decide +kernel

/-- `PLP` (R168). -/
theorem test_V114 :
    goes { (code 0x8000#16 [0x28#8]).write 0x01FF#16 0x00#8 with p := 0xFF#8, sp := 0xFE#8 }
      (fun s => { s with p := 0x30#8, sp := 0xFF#8, pc := 0x8001#16 }) = true := by
  decide +kernel

/-! Flag operations, transfers, NOP, BRK -/

/-- `SEC` (R170). -/
theorem test_V115 : goes (code 0x8000#16 [0x38#8]) (fun s => { s with p := 0x31#8, pc := 0x8001#16 }) = true := by
  decide +kernel

/-- `CLC` (R171). -/
theorem test_V116 :
    goes { code 0x8000#16 [0x18#8] with p := 0x31#8 }
      (fun s => { s with p := 0x30#8, pc := 0x8001#16 }) = true := by
  decide +kernel

/-- `SED` (R172). -/
theorem test_V117 : goes (code 0x8000#16 [0xF8#8]) (fun s => { s with p := 0x38#8, pc := 0x8001#16 }) = true := by
  decide +kernel

/-- `CLD` (R173). -/
theorem test_V118 :
    goes { code 0x8000#16 [0xD8#8] with p := 0x38#8 }
      (fun s => { s with p := 0x30#8, pc := 0x8001#16 }) = true := by
  decide +kernel

/-- `SEI` (R174). -/
theorem test_V119 : goes (code 0x8000#16 [0x78#8]) (fun s => { s with p := 0x34#8, pc := 0x8001#16 }) = true := by
  decide +kernel

/-- `CLI` (R175). -/
theorem test_V120 :
    goes { code 0x8000#16 [0x58#8] with p := 0x34#8 }
      (fun s => { s with p := 0x30#8, pc := 0x8001#16 }) = true := by
  decide +kernel

/-- `CLV` (R176). -/
theorem test_V121 :
    goes { code 0x8000#16 [0xB8#8] with p := 0x70#8 }
      (fun s => { s with p := 0x30#8, pc := 0x8001#16 }) = true := by
  decide +kernel

/-- `CLC` (R171). -/
theorem test_V122 :
    goes { code 0x8000#16 [0x18#8] with p := 0xFE#8 }
      (fun s => { s with pc := 0x8001#16 }) = true := by
  decide +kernel

/-- `TAX` (R177). -/
theorem test_V123 :
    goes { code 0x8000#16 [0xAA#8] with x := 0x05#8 }
      (fun s => { s with x := 0x00#8, p := 0x32#8, pc := 0x8001#16 }) = true := by
  decide +kernel

/-- `TAX` (R177). -/
theorem test_V124 :
    goes { code 0x8000#16 [0xAA#8] with a := 0x80#8 }
      (fun s => { s with x := 0x80#8, p := 0xB0#8, pc := 0x8001#16 }) = true := by
  decide +kernel

/-- `TAY` (R178). -/
theorem test_V125 :
    goes { code 0x8000#16 [0xA8#8] with a := 0x7F#8 }
      (fun s => { s with y := 0x7F#8, pc := 0x8001#16 }) = true := by
  decide +kernel

/-- `TXA` (R179). -/
theorem test_V126 :
    goes { code 0x8000#16 [0x8A#8] with a := 0x01#8, x := 0xFF#8 }
      (fun s => { s with a := 0xFF#8, p := 0xB0#8, pc := 0x8001#16 }) = true := by
  decide +kernel

/-- `TYA` (R180). -/
theorem test_V127 :
    goes { code 0x8000#16 [0x98#8] with a := 0x09#8 }
      (fun s => { s with a := 0x00#8, p := 0x32#8, pc := 0x8001#16 }) = true := by
  decide +kernel

/-- `TSX` (R181). -/
theorem test_V128 :
    goes (code 0x8000#16 [0xBA#8])
      (fun s => { s with x := 0xFF#8, p := 0xB0#8, pc := 0x8001#16 }) = true := by
  decide +kernel

/-- `TSX` (R181). -/
theorem test_V129 :
    goes { code 0x8000#16 [0xBA#8] with sp := 0x00#8 }
      (fun s => { s with p := 0x32#8, pc := 0x8001#16 }) = true := by
  decide +kernel

/-- `TXS` (R182). -/
theorem test_V130 :
    goes { code 0x8000#16 [0x9A#8] with p := 0xB0#8 }
      (fun s => { s with sp := 0x00#8, pc := 0x8001#16 }) = true := by
  decide +kernel

/-- `TXS` (R182). -/
theorem test_V131 :
    goes { code 0x8000#16 [0x9A#8] with x := 0x80#8 }
      (fun s => { s with sp := 0x80#8, pc := 0x8001#16 }) = true := by
  decide +kernel

/-- `NOP` (R183). -/
theorem test_V132 :
    goes { code 0x8000#16 [0xEA#8] with a := 0x01#8, x := 0x02#8, y := 0x03#8, p := 0xF3#8 }
      (fun s => { s with pc := 0x8001#16 }) = true := by
  decide +kernel

/-- `BRK` (R184). -/
theorem test_V133 :
    goes { code 0x8000#16 [0x00#8] with a := 0x09#8, p := 0x33#8 }
      (fun s => { s with pc := 0x8001#16, lastStep := .halt }) = true := by
  decide +kernel

/-! Decode faults -/

/-- `(illegal 0xFF)` (R93, R201). -/
theorem test_V135 : faults { code 0x8000#16 [0xFF#8] with a := 0x07#8 } (.decodeFault 0xFF#8 0x8000#16) = true := by
  decide +kernel

/-- `(illegal 0xEB)` (R93, R201). -/
theorem test_V137 : faults (code 0x8000#16 [0xEB#8, 0x00#8]) (.decodeFault 0xEB#8 0x8000#16) = true := by
  decide +kernel

/-! Top of the address space -/

/-- `LDA #$42` (R110, R16). -/
theorem test_V140 :
    goes { code 0xFFFE#16 [0xA9#8, 0x42#8] with topPolicy := .wrap }
      (fun s => { s with a := 0x42#8, pc := 0x0000#16 }) = true := by
  decide +kernel

/-- `NOP` (R183, R16). -/
theorem test_V141 : refuses (code 0xFFFF#16 [0xEA#8]) = true := by
  decide +kernel

/-- `LDA $0210 (operand high byte read at 0x0000)` (R110, R45). -/
theorem test_V144 :
    goes { storing (code 0xFFFE#16 [0xAD#8, 0x10#8])
        [(0x0000#16, 0x02#8), (0x0210#16, 0x5E#8)] with topPolicy := .wrap }
      (fun s => { s with a := 0x5E#8, pc := 0x0001#16 }) = true := by
  decide +kernel

/-- `RTS` (R162, R16). -/
theorem test_V146 :
    refuses { storing (code 0x8000#16 [0x60#8])
        [(0x01FE#16, 0xFF#8), (0x01FF#16, 0xFF#8)] with sp := 0xFD#8 } = true := by
  decide +kernel

/-! ### Host operations (95_test_vectors.md, the rows H) -/

theorem test_H2_H3 :
    (match State.powerOn.load [0xA9#8, 0x05#8] with
      | .next t => decide (t.pc = 0#16 ∧ t.read 0x8000#16 = 0xA9#8 ∧ t.read 0x8001#16 = 0x05#8 ∧
          t.read 0xFFFC#16 = 0x00#8 ∧ t.read 0xFFFD#16 = 0x80#8 ∧
          t.resetOp = { t with pc := 0x8000#16 })
      | _ => false) = true := by
  decide +kernel

theorem test_H4 :
    let s : State := { ((atPc 0x9999#16).write 0xFFFC#16 0x34#8).write 0xFFFD#16 0x12#8 with
      a := 0x55#8, x := 0x66#8, y := 0x77#8, sp := 0x10#8, p := 0xFF#8 }
    s.resetOp = { s with a := 0#8, x := 0#8, y := 0#8, sp := 0xFF#8, p := 0x30#8, pc := 0x1234#16 } := by
  decide +kernel

theorem test_H5 : goes State.reset (fun s => { s with pc := 0x0001#16, lastStep := .halt }) = true := by decide +kernel

theorem test_H6 (s : State) : s.load (List.replicate 0x8000 0xEA#8) = .refused (.loadRefused 0x8000) := by
  have h : (List.replicate 0x8000 (0xEA#8 : Byte)).length = 0x8000 := List.length_replicate
  rw [State.load, h]
  rfl

theorem test_H9 :
    (match State.powerOn.load [0xEA#8, 0xEA#8, 0xEA#8] with
      | .next t =>
        match t.load [0xA9#8] with
        | .next u => decide (u.read 0x8000#16 = 0xA9#8 ∧ u.read 0x8001#16 = 0xEA#8 ∧ u.read 0x8002#16 = 0xEA#8)
        | _ => false
      | _ => false) = true := by
  decide +kernel

theorem test_H10_H11 :
    (State.powerOn.write16 0x01FF#16 0xBEEF#16).map
        (fun t => (t.read 0x01FF#16, t.read 0x0200#16, t.read16 0x01FF#16)) =
      some (0xEF#8, 0xBE#8, some 0xBEEF#16) := by
  decide +kernel

theorem test_H12_H13 :
    State.powerOn.read16 0xFFFF#16 = none ∧ State.powerOn.write16 0xFFFF#16 0xBEEF#16 = none ∧
      ((wrapAt 0#16).write16 0xFFFF#16 0xBEEF#16).map
          (fun t => (t.read 0xFFFF#16, t.read 0x0000#16, t.read16 0xFFFF#16)) =
        some (0xEF#8, 0xBE#8, some 0xBEEF#16) := by
  decide +kernel

theorem test_H15 :
    let t := (State.powerOn.setSp 0x00#8).push 0xAA#8
    t.read 0x0100#16 = 0xAA#8 ∧ t.sp = 0xFF#8 ∧ t.pop.1 = 0xAA#8 ∧ t.pop.2.sp = 0x00#8 := by
  decide +kernel

theorem test_H16 :
    let t := (State.powerOn.setSp 0x00#8).push16 0x1234#16
    t.read 0x0100#16 = 0x12#8 ∧ t.read 0x01FF#16 = 0x34#8 ∧ t.sp = 0xFE#8 ∧ t.pop16.1 = 0x1234#16 ∧
      t.pop16.2.sp = 0x00#8 := by
  decide +kernel

/-! ### The canonical form of memory -/

theorem test_write_of_zero_removes_the_cell :
    ((State.powerOn.write 0x0010#16 0x05#8).write 0x0010#16 0x00#8).mem = [] ∧
      ((State.powerOn.write 0x0010#16 0x05#8).write 0x0002#16 0x07#8).mem = [(2, 0x07#8), (0x10, 0x05#8)] := by
  decide +kernel

theorem test_wf_refuses : Memory.wf [(2, 0x07#8), (2, 0x08#8)] = false ∧ Memory.wf [(2, 0x00#8)] = false ∧
    Memory.wf [(65536, 0x01#8)] = false ∧ Memory.wf [(3, 0x07#8), (2, 0x08#8)] = false := by
  decide +kernel

/-! ### Witnesses: each hypothesis of each obligation is met, at a boundary -/

/-- The operand has a data byte and the address after the instruction exists. -/
def hasOperand (i : Instr) (s : State) : Bool := (operandByte i.operand s).isSome && (s.inc16 s.pc i.len).isSome

/-- The operand has an effective address and the address after the instruction exists. -/
def hasAddress (i : Instr) (s : State) : Bool := (effectiveAddress i.operand s).isSome && (s.inc16 s.pc i.len).isSome

theorem witness_EncodeOfDecodeIsTheBytes : decodes [0xAD#8, 0xFF#8, 0xFF#8] (.ldaAbs 0xFFFF#16) [] = true := by
  decide +kernel

/-- The last address at which an opcode can be fetched under `refuse`. -/
theorem witness_StepRunsTheDecodedInstruction :
    let s := code 0xFFFE#16 [0xEA#8]
    (s.inc16 s.pc 1).isSome ∧
      decodes [s.read s.pc, s.read (s.pc + 1#16), s.read (s.pc + 2#16)] .nop [0x00#8, 0x00#8] = true := by
  decide +kernel

/-- An instruction that wraps round the top of memory (under `wrap` it is executed so). -/
theorem witness_FetchedInstructionIsTheBytesAtPc :
    (storing (code 0xFFFE#16 [0xAD#8, 0x10#8]) [(0x0000#16, 0x02#8)]).fetch = some (.ldaAbs 0x0210#16) := by
  decide +kernel

theorem witness_DecodeFaultExactlyOnIllegalBytes :
    let s := code 0xFFFE#16 [0xFF#8]
    (s.inc16 s.pc 1).isSome ∧ s.read s.pc ∈ illegalBytes ∧ faults s (.decodeFault 0xFF#8 0xFFFE#16) = true := by
  decide +kernel

theorem witness_AddressingModeMisuseIsUnreachable :
    Operand.acc.form.tag = .noneAddressing ∧ Operand.imp.form.tag = .noneAddressing ∧
      (Operand.rel 0x80#8).form.tag = .noneAddressing := by
  decide +kernel

theorem witness_WrapPolicyNeverRefuses :
    (wrapAt 0xFFFF#16).topPolicy = .wrap ∧ (wrapAt 0xFFFF#16).read (wrapAt 0xFFFF#16).pc ∉ illegalBytes := by
  decide +kernel

/-- One state for each of the four clauses; for the fourth, both sides of the equivalence occur. -/
theorem witness_RefusePolicyAtTheTopOfMemory :
    (atPc 0xFFFF#16).topPolicy = .refuse ∧ (atPc 0xFFFF#16).pc = 0xFFFF#16 ∧
      Mnemonic.lda ∉ transferMnemonics ∧ 0xFFFF < (atPc 0xFFFE#16).pc.toNat + (Instr.ldaImm 0x00#8).len ∧
      (.bne 0x80#8, .z, false) ∈ branchTable 0x80#8 ∧ 0xFFFE ≤ (atPc 0xFFFE#16).pc.toNat ∧
      completes (.jmpAbs 0x0000#16) (atPc 0xFFFD#16) = true ∧ completes (.jmpAbs 0x0000#16) (atPc 0xFFFE#16) = false ∧
      completes (.jsr 0x0000#16) (atPc 0xFFFD#16) = true ∧ completes (.jsr 0x0000#16) (atPc 0xFFFE#16) = false := by
  decide +kernel

theorem witness_StepKeepsTheInvariant :
    let s := code 0x8000#16 [0x28#8]
    (s.mem.wf = true ∧ s.p &&& Config.statusAlwaysOne = Config.statusAlwaysOne) ∧
      goes s (fun s => { s with sp := 0x00#8, pc := 0x8001#16 }) = true := by
  decide +kernel

/-- Each of the ways the rule names: an instruction, a step, and the host operations. -/
theorem witness_StatusBits4And5AreAlwaysOne :
    (atPc 0x8000#16).p &&& 0x30#8 = 0x30#8 ∧ completes .plp (atPc 0x8000#16) = true ∧
      goes (code 0x8000#16 [0x40#8]) (fun s => { s with sp := 0x02#8, pc := 0x0000#16 }) = true ∧
      (State.powerOn.load []).casesOn (fun _ => true) (fun _ => false) (fun _ => false) = true ∧
      (State.powerOn.memWrite16 0x0000#16 0x0000#16).casesOn (fun _ => true) (fun _ => false) (fun _ => false) =
        true := by
  decide +kernel

theorem witness_StackPointerChangedOnlyByTxsPushesAndPops :
    completes .inx (atPc 0xFFFE#16) = true ∧
      Mnemonic.inx ∉ [Mnemonic.txs, .pha, .php, .pla, .plp, .jsr, .rts, .rti] ∧
      (atPc 0xFFFE#16).inc16 0xFFFE#16 1 = some 0xFFFF#16 := by
  decide +kernel

/-- For each flag an instruction of a neighbouring list that completes: LDA for C, I, D and V; SEC for Z and N. -/
theorem witness_FlagsWrittenOnlyByTheListedInstructions :
    completes (.ldaImm 0x80#8) (atPc 0xFFFD#16) = true ∧ completes .sec (atPc 0xFFFE#16) = true ∧
      Mnemonic.lda ∉ [Mnemonic.adc, .sbc, .asl, .lsr, .rol, .ror, .cmp, .cpx, .cpy, .sec, .clc, .plp, .rti] ∧
      Mnemonic.sec ∉ [Mnemonic.lda, .ldx, .ldy, .adc, .sbc, .and, .ora, .eor, .asl, .lsr, .rol, .ror, .inc, .dec, .inx,
        .iny, .dex, .dey, .tax, .tay, .txa, .tya, .tsx, .pla, .cmp, .cpx, .cpy, .bit, .plp, .rti] := by
  decide +kernel

/-- STA for A, X and Y; an accumulator shift and LDA for memory; a memory shift for A. -/
theorem witness_RegistersAndMemoryWrittenOnlyByTheListedInstructions :
    completes (.staAbs 0xFFFF#16) (atPc 0xFFFC#16) = true ∧ completes .rolAcc (atPc 0xFFFE#16) = true ∧
      completes (.ldaIny 0xFF#8) (atPc 0xFFFD#16) = true ∧ completes (.rolAbx 0xFFFF#16) (atPc 0xFFFC#16) = true ∧
      (Instr.rolAbx 0xFFFF#16).operand ≠ .acc ∧ Instr.rolAcc.operand = .acc := by
  decide +kernel

theorem witness_InterruptAndDecimalFlagsHaveNoEffect :
    completes (.adcImm 0x99#8) { atPc 0xFFFD#16 with p := 0x3C#8 } = true ∧
      Mnemonic.adc ∉ [Mnemonic.php, .plp, .rti, .sei, .cli, .sed, .cld] := by
  decide +kernel

theorem witness_ZeroPageAddressesWrapInPageZero : (Instr.stxZpy 0xFF#8).operand = .zpy 0xFF#8 := by decide +kernel

theorem witness_IndirectPointerHasThePageBug : (Instr.jmpInd 0xFFFF#16).operand = .ind 0xFFFF#16 := by decide +kernel

theorem witness_LoadsSetTheirRegisterAndZN :
    [Instr.ldaImm 0x80#8, .ldxZpy 0xFF#8, .ldyImm 0x00#8].all (fun i => hasOperand i (atPc 0xFFFD#16)) = true ∧
      [Instr.ldaImm 0x80#8, .ldxZpy 0xFF#8, .ldyImm 0x00#8].map Instr.mnemonic = [.lda, .ldx, .ldy] := by
  decide +kernel

theorem witness_StoresWriteTheEffectiveAddressOnly :
    [Instr.staIny 0xFF#8, .stxZpy 0xFF#8, .styZpx 0xFF#8].all (fun i => hasAddress i (atPc 0xFFFD#16)) = true ∧
      [Instr.staIny 0xFF#8, .stxZpy 0xFF#8, .styZpx 0xFF#8].map Instr.mnemonic = [.sta, .stx, .sty] := by
  decide +kernel

theorem witness_AdcAddsWithCarryAndSignedOverflow :
    (Instr.adcAby 0xFFFF#16).mnemonic = .adc ∧ hasOperand (.adcAby 0xFFFF#16) (atPc 0xFFFC#16) = true := by
  decide +kernel

theorem witness_SbcSubtractsWithBorrowAndSignedOverflow :
    (Instr.sbcInx 0xFF#8).mnemonic = .sbc ∧ hasOperand (.sbcInx 0xFF#8) (atPc 0xFFFD#16) = true := by
  decide +kernel

theorem witness_LogicCombinesMemoryIntoA :
    [Instr.andZp 0xFF#8, .oraImm 0x80#8, .eorZpx 0xFF#8].all (fun i => hasOperand i (atPc 0xFFFD#16)) = true ∧
      [Instr.andZp 0xFF#8, .oraImm 0x80#8, .eorZpx 0xFF#8].map Instr.mnemonic = [.and, .ora, .eor] := by
  decide +kernel

theorem witness_BitTestsMemoryAgainstA :
    (Instr.bitAbs 0xFFFF#16).mnemonic = .bit ∧ hasOperand (.bitAbs 0xFFFF#16) (atPc 0xFFFC#16) = true := by
  decide +kernel

theorem witness_ShiftsMoveTheirTargetByOneBit :
    (Instr.rorAcc ∈ [Instr.aslAcc, .lsrAcc, .rolAcc, .rorAcc] ∧
        (atPc 0xFFFE#16).inc16 0xFFFE#16 1 = some 0xFFFF#16) ∧
      (Instr.rorAbx 0xFFFF#16).mnemonic ∈ [Mnemonic.asl, .lsr, .rol, .ror] ∧
      hasAddress (.rorAbx 0xFFFF#16) (atPc 0xFFFC#16) = true := by
  decide +kernel

theorem witness_RorUndoesRol :
    (atPc 0xFFFD#16).inc16 0xFFFD#16 1 = some 0xFFFE#16 ∧ (atPc 0xFFFD#16).inc16 0xFFFE#16 1 = some 0xFFFF#16 := by
  decide +kernel

theorem witness_ComparesSetCZNOnly :
    [Instr.cmpIny 0xFF#8, .cpxImm 0xFF#8, .cpyZp 0x00#8].all (fun i => hasOperand i (atPc 0xFFFD#16)) = true ∧
      [Instr.cmpIny 0xFF#8, .cpxImm 0xFF#8, .cpyZp 0x00#8].map Instr.mnemonic = [.cmp, .cpx, .cpy] := by
  decide +kernel

theorem witness_IncAndDecChangeOneMemoryByte :
    [Instr.incAbx 0xFFFF#16, .decAbs 0xFFFF#16].all (fun i => hasAddress i (atPc 0xFFFC#16)) = true ∧
      [Instr.incAbx 0xFFFF#16, .decAbs 0xFFFF#16].map Instr.mnemonic = [.inc, .dec] := by
  decide +kernel

/-- The hypothesis of every statement about a one-byte instruction, at the last address that meets it. -/
theorem witness_one_byte_instructions : (atPc 0xFFFE#16).inc16 (atPc 0xFFFE#16).pc 1 = some 0xFFFF#16 := by
  decide +kernel

theorem witness_RegisterIncrementsAndDecrementsWrap :
    ∃ s : State, ∃ pc', s.inc16 s.pc 1 = some pc' := ⟨_, _, witness_one_byte_instructions⟩

/-- Not taken; taken with a target at the top of the range; taken with no target. -/
theorem witness_BranchesRedirectPcOnTheirFlag :
    (.bne 0x7F#8, .z, false) ∈ branchTable 0x7F#8 ∧ (atPc 0xFF7E#16).inc16 0xFF7E#16 2 = some 0xFF80#16 ∧
      flag .z { atPc 0xFF7E#16 with p := 0x32#8 }.p ≠ false ∧ flag .z (atPc 0xFF7E#16).p = false ∧
      (atPc 0xFF7E#16).inc16 0xFF80#16 127 = some 0xFFFF#16 ∧
      (atPc 0xFF7F#16).inc16 0xFF7F#16 2 = some 0xFF81#16 ∧ (atPc 0xFF7F#16).inc16 0xFF81#16 127 = none := by
  decide +kernel

theorem witness_JmpSetsPcToTheEffectiveAddress :
    (Instr.jmpInd 0xFFFF#16).mnemonic = .jmp ∧ (effectiveAddress (.ind 0xFFFF#16) (atPc 0xFFFD#16)).isSome ∧
      ((atPc 0xFFFD#16).inc16 0xFFFD#16 2).isSome ∧ (atPc 0xFFFE#16).inc16 0xFFFE#16 2 = none := by
  decide +kernel

theorem witness_JsrPushesTheReturnAddressMinusOne : (atPc 0xFFFD#16).inc16 (atPc 0xFFFD#16).pc 2 = some 0xFFFF#16 := by
  decide +kernel

/-- With SP = 0xFF the word is popped from 0x0100 and 0x0101: once 0xFFFE, once 0xFFFF. -/
theorem witness_RtsReturnsToThePoppedAddressPlusOne :
    let s := ((atPc 0x8000#16).write 0x0100#16 0xFE#8).write 0x0101#16 0xFF#8
    let t := ((atPc 0x8000#16).write 0x0100#16 0xFF#8).write 0x0101#16 0xFF#8
    s.inc16 (hiLo (s.read (stackAddr (s.sp + 2#8))) (s.read (stackAddr (s.sp + 1#8)))) 1 = some 0xFFFF#16 ∧
      t.inc16 (hiLo (t.read (stackAddr (t.sp + 2#8))) (t.read (stackAddr (t.sp + 1#8)))) 1 = none := by
  decide +kernel

theorem witness_RtsAfterJsrReturnsBehindTheJsr : (atPc 0xFFFC#16).inc16 (atPc 0xFFFC#16).pc 3 = some 0xFFFF#16 := by
  decide +kernel

theorem witness_PushesStoreOneByteAndDecrementSp :
    ∃ s : State, ∃ pc', s.inc16 s.pc 1 = some pc' := ⟨_, _, witness_one_byte_instructions⟩

theorem witness_PlaPullsAAndUpdatesZN :
    ∃ s : State, ∃ pc', s.inc16 s.pc 1 = some pc' := ⟨_, _, witness_one_byte_instructions⟩

theorem witness_PlpLoadsTheSixFlags :
    ∃ s : State, ∃ pc', s.inc16 s.pc 1 = some pc' := ⟨_, _, witness_one_byte_instructions⟩

theorem witness_PullAfterPushRestores :
    (atPc 0xFFFD#16).p &&& 0x30#8 = 0x30#8 ∧ (atPc 0xFFFD#16).inc16 (atPc 0xFFFD#16).pc 1 = some 0xFFFE#16 ∧
      (atPc 0xFFFD#16).inc16 0xFFFE#16 1 = some 0xFFFF#16 := by
  decide +kernel

/-- The last address below the stack page and the first above it. -/
theorem witness_Pop16AfterPush16GivesTheWordBack :
    (0x00FF#16 : Addr).toNat < 0x0100 ∧ 0x01FF < (0x0200#16 : Addr).toNat := by
  decide +kernel

theorem witness_PopsReversePushesUpTo256Bytes : (List.replicate 256 0xAA#8).length ≤ 256 :=
  List.length_replicate.le

theorem witness_FlagInstructionsChangeOneBit :
    (atPc 0xFFFE#16).inc16 (atPc 0xFFFE#16).pc 1 = some 0xFFFF#16 ∧
      (.clv, 6, false) ∈ [(Instr.sec, 0, true), (.clc, 0, false), (.sed, 3, true), (.cld, 3, false), (.sei, 2, true),
        (.cli, 2, false), (.clv, 6, false)] := by
  decide +kernel

theorem witness_TransfersCopyOneRegister :
    ∃ s : State, ∃ pc', s.inc16 s.pc 1 = some pc' := ⟨_, _, witness_one_byte_instructions⟩

theorem witness_NopOnlyAdvancesPc :
    ∃ s : State, ∃ pc', s.inc16 s.pc 1 = some pc' := ⟨_, _, witness_one_byte_instructions⟩

/-- For the second clause, BRK and another instruction both complete. -/
theorem witness_BrkHaltsAndChangesOnlyPc :
    (atPc 0xFFFE#16).inc16 (atPc 0xFFFE#16).pc 1 = some 0xFFFF#16 ∧ completes .brk (atPc 0xFFFE#16) = true ∧
      completes .nop (atPc 0xFFFE#16) = true := by
  decide +kernel

theorem witness_SixteenBitAccessesAreLittleEndian :
    (0xFFFE#16 : Addr) ≠ 0xFFFF#16 ∧ (atPc 0x0000#16).topPolicy = .refuse ∧ (wrapAt 0x0000#16).topPolicy = .wrap := by
  decide +kernel

/-- The longest program, a byte of it, and addresses on both sides of it. -/
theorem witness_LoadCopiesTheProgramThenWritesTheVector :
    (List.replicate 0x7FFF 0xEA#8).length ≤ 0x7FFF ∧ (List.replicate 0x7FFF 0xEA#8)[0x7FFE]? = some 0xEA#8 ∧
      (0x7FFF#16 : Addr).toNat < 0x8000 ∧
      0x8000 + (List.replicate 0x7FFF 0xEA#8).length ≤ (0xFFFF#16 : Addr).toNat := by
  rw [List.length_replicate, List.getElem?_replicate]
  decide +kernel

theorem witness_LoadRefusesLongPrograms : 0x7FFF < (List.replicate 0x8000 0xEA#8).length := by
  rw [List.length_replicate]
  decide +kernel

theorem witness_LoadThenResetStartsTheProgram :
    (encode (.ldaAbs 0xFFFF#16) ++ List.replicate 0x7FF9 0xEA#8).length ≤ 0x7FFC := by
  rw [List.length_append, List.length_replicate]
  decide +kernel

/-- Ends of each kind, with the last fuel that reaches them and with more: a halt after a NOP, a decode fault after a
NOP, a refusal at the top of memory, and no fuel left. -/
theorem witness_RunEndsAsItsFirstStoppingStep :
    let s := code 0x8000#16 [0xEA#8]
    let f := code 0x8000#16 [0xEA#8, 0x02#8]
    nextSteps 1 s = some { s with pc := 0x8001#16 } ∧
      s.run 2 = .halt { s with pc := 0x8002#16, lastStep := .halt } ∧
      s.run 3 = .halt { s with pc := 0x8002#16, lastStep := .halt } ∧
      s.run 1 = .outOfFuel { s with pc := 0x8001#16 } ∧
      f.run 2 = .fault (.decodeFault 0x02#8 0x8001#16) ∧
      (code 0xFFFE#16 [0xEA#8]).run 2 = .refused .addressWrap := by
  decide +kernel

/-- Both ends of the range, and the first values beyond each. -/
theorem witness_Inc16IsTheSumOrFollowsTopPolicy :
    let inRange (v : Addr) (k : Int) : Bool := decide (0 ≤ v.toNat + k ∧ v.toNat + k ≤ 0xFFFF)
    (inRange 0x0000#16 0 && inRange 0xFFFF#16 0 && inRange 0x0012#16 (-18) && inRange 0xFFFE#16 1 &&
      !inRange 0xFFFF#16 1 && !inRange 0x0012#16 (-19)) = true := by
  decide +kernel

/-- R16's own example: a taken `BNE -128` at 0x0010 gives 0xFF92 under `wrap` and nothing under `refuse`. -/
theorem test_Inc16_below_zero :
    Machine.inc16 .wrap 0x0012#16 (-128) = some 0xFF92#16 ∧ Machine.inc16 .refuse 0x0012#16 (-128) = none ∧
      Machine.inc16 .refuse 0x0012#16 (-18) = some 0x0000#16 := by
  decide +kernel

/-- A memory form, and a fetched instruction of the form IMM. -/
theorem witness_OperandByteIsTheByteAtTheEffectiveAddress :
    (∀ v, Operand.iny 0xFF#8 ≠ .imm v) ∧ (code 0xFFFD#16 [0xA9#8, 0x80#8]).fetch = some (.ldaImm 0x80#8) :=
  ⟨fun _ h => (by cases h), by decide +kernel⟩

end

end Sys2Proof.Tests
end

section
/-! Proofs of the statements of the scope: Inc16, the invariant of a step, what a step can answer, how a run ends. -/

open Sys2Proof Sys2Proof.Machine

/-! ### What `Inc16` answers (R16) -/

namespace Sys2Proof.Machine

/-- A sum brought back to 16 bits is the sum modulo 65536. -/
theorem toNat_ofInt_addr (n : Int) : ((BitVec.ofInt 16 n).toNat : Int) = n % 65536 := by
  rw [BitVec.toNat_ofInt]
  omega

/-- A machine's `Inc16` answers nothing only under TOP_POLICY = refuse. -/
theorem State.refuse_of_inc16_eq_none {s : State} {v : Addr} {k : Int} (h : s.inc16 v k = none) :
    s.topPolicy = .refuse :=
  ((inc16_eq_none_iff _ _ _).1 h).1

end Sys2Proof.Machine

/-- Settles O59: `inc16_of_range` in range, `inc16_cases` beyond it. -/
theorem inc16IsTheSumOrFollowsTopPolicy : Obligations.Inc16IsTheSumOrFollowsTopPolicy := by
  unfold Obligations.Inc16IsTheSumOrFollowsTopPolicy
  refine ⟨fun policy v k ⟨h0, h1⟩ => ?_, fun v k h => ⟨?_, ?_⟩, fun _ _ _ => rfl⟩
  · refine ⟨_, inc16_of_range policy h0 (by omega), ?_⟩
    rw [toNat_ofInt_addr]
    omega
  · rcases inc16_cases .wrap v k with ⟨h0, h1, -⟩ | ⟨-, ⟨hp, -⟩ | ⟨-, hsum⟩⟩
    · omega
    · cases hp
    · exact ⟨_, hsum, toNat_ofInt_addr _⟩
  · exact (inc16_eq_none_iff _ _ _).2 ⟨rfl, by omega⟩

/-! ### What every instruction keeps (R4, R18, R40, R42) -/

namespace Sys2Proof.Machine

/-- No instruction writes the field of TOP_POLICY. -/
theorem Effect.topPolicy_eq {mn : Mnemonic} {o : Operand} {s u : State} (h : Effect mn o s u) :
    u.topPolicy = s.topPolicy := by
  cases h <;> rfl

/-- Every instruction's P has bits 4 and 5 from the old P or, for PLP and RTI, from `loadP`, which sets them. -/
theorem Effect.alwaysOne {mn : Mnemonic} {o : Operand} {s u : State} (h : Effect mn o s u)
    (hp : s.p &&& Config.statusAlwaysOne = Config.statusAlwaysOne) :
    u.p &&& Config.statusAlwaysOne = Config.statusAlwaysOne := by
  cases h <;> simp [hp]

/-- Memory changes by single stores and pushes alone, and each of them keeps the canonical form. -/
theorem Effect.mem_wf {mn : Mnemonic} {o : Operand} {s u : State} (h : Effect mn o s u) (hm : s.mem.wf = true) :
    u.mem.wf = true := by
  cases h
  case sta b | stx b | sty b | inc b _ | dec b _ | shiftMemory _ b _ _ => exact s.write_wf b _ hm
  case pha | php => exact s.push_wf _ hm
  case jsr last => exact s.push16_wf last hm
  all_goals exact hm

/-- An instruction's effect keeps the invariant, and writing PC and `lastStep` after it touches neither half. -/
theorem exec_keeps_inv {i : Instr} {s t : State} (hs : s.Inv) (h : exec i s = .next t) : t.Inv := by
  obtain ⟨hmem, hp⟩ := hs
  obtain ⟨u, pc, e, hu, rfl, -⟩ := exec_effect h
  exact ⟨hu.mem_wf hmem, hu.alwaysOne hp⟩

theorem exec_keeps_topPolicy {i : Instr} {s t : State} (h : exec i s = .next t) : t.topPolicy = s.topPolicy := by
  obtain ⟨u, pc, e, hu, rfl, -⟩ := exec_effect h
  exact hu.topPolicy_eq

end Sys2Proof.Machine

/-- Settles O13: a completed step is a completed instruction, and every instruction keeps both. -/
theorem stepKeepsTheInvariant : Obligations.StepKeepsTheInvariant := by
  intro s t hs h
  obtain ⟨i, -, -, hexec⟩ := step_eq_next_iff.1 h
  exact ⟨exec_keeps_inv hs hexec, exec_keeps_topPolicy hexec⟩

/-! ### What an instruction can answer (R5, R203, R204) -/

namespace Sys2Proof.Machine

/-- The answer `r` is a next state, or the refusal for address wrap of a machine `s` whose TOP_POLICY is refuse. -/
def NextOrRefused (s : State) (r : Result) : Prop :=
  (∃ t, r = .next t) ∨ s.topPolicy = .refuse ∧ r = refuseAddressWrap

theorem NextOrRefused.next (s t : State) : NextOrRefused s (.next t) := .inl ⟨t, rfl⟩

/-- The one reason for a refusal: an `Inc16` that answers nothing. -/
theorem NextOrRefused.of_inc16_eq_none {s : State} {v : Addr} {k : Int} (h : s.inc16 v k = none) :
    NextOrRefused s refuseAddressWrap :=
  .inr ⟨State.refuse_of_inc16_eq_none h, rfl⟩

theorem NextOrRefused.of_policy {s u : State} {r : Result} (hp : u.topPolicy = s.topPolicy)
    (h : NextOrRefused u r) : NextOrRefused s r := by
  rwa [NextOrRefused, hp] at h

theorem State.finish_nextOrRefused (s : State) (len : Nat) (e : StepEnd) : NextOrRefused s (s.finish len e) := by
  unfold State.finish
  split
  · next h => exact .of_inc16_eq_none h
  · exact .next s _

/-- Where the operand has an address, the resolver adds no answer but the refusal to those of what follows it. -/
theorem withAddress_nextOrRefused {mn : Mnemonic} {o : Operand} {s : State} {k : Addr → Result}
    (ho : o.form.tag ≠ .noneAddressing) (hk : ∀ ea, NextOrRefused s (k ea)) :
    NextOrRefused s (withAddress mn o s k) := by
  rcases withAddress_cases mn o s k with ⟨hnone, -⟩ | ⟨ea, -, ⟨hinc, hw⟩ | ⟨-, hw⟩⟩
  · simp [← effectiveAddress_isSome_iff o s, hnone] at ho
  · exact hw ▸ .of_inc16_eq_none hinc
  · exact hw ▸ hk ea

theorem branch_nextOrRefused (f : Flag) (value : Bool) (rel : Byte) (s : State) :
    NextOrRefused s (branch f value rel s) := by
  unfold branch
  split
  · next h => exact .of_inc16_eq_none h
  · split
    · split
      · next h => exact .of_inc16_eq_none h
      · exact .next s _
    · exact s.finish_nextOrRefused _ _

theorem jumpToSubroutine_nextOrRefused (target : Addr) (s : State) :
    NextOrRefused s (jumpToSubroutine (.abs target) s) := by
  refine withAddress_nextOrRefused (by simp [Operand.form, OperandForm.tag]) fun ea => ?_
  split
  · next h => exact .of_inc16_eq_none h
  · exact .next s _

theorem returnFromSubroutine_nextOrRefused (s : State) : NextOrRefused s (returnFromSubroutine s) := by
  unfold returnFromSubroutine
  split
  · next h => exact .of_inc16_eq_none h
  · exact .next s _

/-- Every shape of a meaning completes or is refused, the refusal under TOP_POLICY = refuse alone. -/
theorem HandlerShape.nextOrRefused {g : State → Result} (hg : HandlerShape g) (s : State) :
    NextOrRefused s (g s) := by
  cases hg with
  | finish f n e hpc hpolicy => exact .of_policy (hpolicy s) ((f s).finish_nextOrRefused n e)
  | addressed mn o f ho hpc hpolicy =>
    exact withAddress_nextOrRefused ho fun ea => .of_policy (hpolicy s ea) ((f s ea).finish_nextOrRefused _ _)
  | branch f value rel => exact branch_nextOrRefused f value rel s
  | jump o ho => exact withAddress_nextOrRefused ho fun ea => .next s _
  | subroutine target => exact jumpToSubroutine_nextOrRefused target s
  | subroutineReturn => exact returnFromSubroutine_nextOrRefused s
  | interruptReturn => exact .next s _

theorem exec_nextOrRefused (i : Instr) (s : State) : NextOrRefused s (exec i s) :=
  (exec_shape i).nextOrRefused s

/-- The opcode table has a row for every byte that R93 does not list, and for no other. -/
theorem lookupOpcode_isSome_iff (b : Byte) : (lookupOpcode b).isSome ↔ b ∉ illegalBytes := by
  revert b
  decide +kernel

theorem State.fetch_isSome_iff (s : State) : s.fetch.isSome ↔ s.read s.pc ∉ illegalBytes := by
  rw [← lookupOpcode_isSome_iff, State.fetch, instrOf, Option.isSome_map]

end Sys2Proof.Machine

/-- Settles O9: a step is refused at its first check, or faults in the decoder, or answers what its instruction does. -/
theorem everyStepHasOneOfTheOutcomes : Obligations.EveryStepHasOneOfTheOutcomes := by
  intro s
  rcases step_cases s with ⟨-, hstep⟩ | ⟨-, -, hstep⟩ | ⟨i, -, -, hstep⟩ <;> rw [hstep]
  · exact .inr (.inr rfl)
  · exact .inr (.inl rfl)
  · rcases exec_nextOrRefused i s with hnext | ⟨-, hrefused⟩
    · exact .inl hnext
    · exact .inr (.inr hrefused)

/-- Settles O10: each of the three ways not to complete needs TOP_POLICY = refuse or an illegal byte. -/
theorem wrapPolicyNeverRefuses : Obligations.WrapPolicyNeverRefuses := by
  intro s hwrap hlegal
  have hpolicy : s.topPolicy ≠ .refuse := by simp [hwrap]
  rcases step_cases s with ⟨hinc, -⟩ | ⟨-, hfetch, -⟩ | ⟨i, -, -, hstep⟩
  · exact absurd (State.refuse_of_inc16_eq_none hinc) hpolicy
  · simp [← s.fetch_isSome_iff, hfetch] at hlegal
  · rcases exec_nextOrRefused i s with hnext | ⟨hrefuse, -⟩
    · exact hstep ▸ hnext
    · exact absurd hrefuse hpolicy

/-! ### How a run ends (R224, R233) -/

namespace Sys2Proof.Machine

/-- The end of a run whose step answers `r`, or `none` where the run goes on: the outcome is `Next` (R5). -/
def stopOf : Result → Option RunEnd
  | .fault r => some (.fault r)
  | .refused r => some (.refused r)
  | .next t =>
    match t.lastStep with
    | .halt => some (.halt t)
    | .next => none

theorem stopOf_eq_fault_iff {r : Result} {f : Fault} : stopOf r = some (.fault f) ↔ r = .fault f := by
  cases r with
  | next t => cases h : t.lastStep <;> simp [stopOf, h]
  | fault _ => simp [stopOf]
  | refused _ => simp [stopOf]

theorem stopOf_eq_refused_iff {r : Result} {q : Refusal} : stopOf r = some (.refused q) ↔ r = .refused q := by
  cases r with
  | next t => cases h : t.lastStep <;> simp [stopOf, h]
  | fault _ => simp [stopOf]
  | refused _ => simp [stopOf]

theorem stopOf_eq_halt_iff {r : Result} {t : State} :
    stopOf r = some (.halt t) ↔ r = .next t ∧ t.lastStep = .halt := by
  cases r with
  | next u =>
    cases h : u.lastStep
    · simp only [stopOf, h, reduceCtorEq, Host.Outcome.next.injEq, false_iff]
      rintro ⟨rfl, ht⟩
      simp [h] at ht
    · simp only [stopOf, h, Option.some.injEq, RunEnd.halt.injEq, Host.Outcome.next.injEq, iff_self_and]
      rintro rfl
      exact h
  | fault _ => simp [stopOf]
  | refused _ => simp [stopOf]

/-- A step never ends a run for want of fuel. -/
theorem stopOf_ne_outOfFuel {r : Result} (t : State) : stopOf r ≠ some (.outOfFuel t) := by
  cases r with
  | next u => cases h : u.lastStep <;> simp [stopOf, h]
  | fault _ => simp [stopOf]
  | refused _ => simp [stopOf]

@[simp] theorem nextSteps_zero (s : State) : nextSteps 0 s = some s := rfl

/-- The first step of a run ends it, whatever the fuel, or the run is that of the next state. -/
theorem run_succ_cases (s : State) :
    (∃ e, stopOf (step s) = some e ∧ (∀ n, s.run (n + 1) = e) ∧ ∀ n, nextSteps (n + 1) s = none) ∨
    (∃ t, stopOf (step s) = none ∧ (∀ n, s.run (n + 1) = t.run n) ∧
      ∀ n, nextSteps (n + 1) s = nextSteps n t) := by
  cases hstep : step s with
  | fault r =>
    exact .inl ⟨.fault r, rfl, fun n => by simp [State.run, hstep], fun n => by simp [nextSteps, hstep]⟩
  | refused r =>
    exact .inl ⟨.refused r, rfl, fun n => by simp [State.run, hstep], fun n => by simp [nextSteps, hstep]⟩
  | next t =>
    cases hlast : t.lastStep with
    | halt =>
      exact .inl ⟨.halt t, by simp [stopOf, hlast], fun n => by simp [State.run, hstep, hlast],
        fun n => by simp [nextSteps, hstep, hlast]⟩
    | next =>
      exact .inr ⟨t, by simp [stopOf, hlast], fun n => by simp [State.run, hstep, hlast],
        fun n => by simp [nextSteps, hstep, hlast]⟩

/-- A run is out of fuel exactly where all its steps are `Next`. -/
theorem run_eq_outOfFuel_iff {s t : State} {n : Nat} : s.run n = .outOfFuel t ↔ nextSteps n s = some t := by
  induction n generalizing s with
  | zero => simp [State.run]
  | succ n ih =>
    rcases run_succ_cases s with ⟨e, hstop, hrun, hsteps⟩ | ⟨u, -, hrun, hsteps⟩
    · rw [hrun, hsteps]
      have hne : e ≠ .outOfFuel t := fun he => stopOf_ne_outOfFuel t (he ▸ hstop)
      simp [hne]
    · rw [hrun, hsteps, ih]

/-- Any other end is that of the first step whose outcome is not `Next`. -/
theorem run_eq_iff {s : State} {n : Nat} {e : RunEnd} (he : ∀ t, e ≠ .outOfFuel t) :
    s.run n = e ↔ ∃ k u, k < n ∧ nextSteps k s = some u ∧ stopOf (step u) = some e := by
  induction n generalizing s with
  | zero => simpa [State.run] using (he s).symm
  | succ n ih =>
    rw [← Nat.or_exists_add_one]
    rcases run_succ_cases s with ⟨e', hstop, hrun, hsteps⟩ | ⟨t, hstop, hrun, hsteps⟩
    · simp [hrun, hsteps, hstop]
    · simp [hrun, hsteps, hstop, ih]

theorem mnemonic_eq_brk_iff (i : Instr) : i.mnemonic = .brk ↔ i = .brk := by
  cases i <;> simp [Instr.mnemonic]

/-- BRK is the one instruction whose completed step halts (R184). -/
theorem step_halts_iff {s t : State} :
    step s = .next t ∧ t.lastStep = .halt ↔ s.fetch = some .brk ∧ step s = .next t := by
  rw [and_comm, and_congr_left_iff]
  intro hstep
  obtain ⟨i, -, hfetch, hexec⟩ := step_eq_next_iff.1 hstep
  obtain ⟨u, pc, e, -, rfl, hhalt⟩ := exec_effect hexec
  rw [State.endStep_lastStep, hhalt, hfetch, Option.some.injEq, mnemonic_eq_brk_iff]

end Sys2Proof.Machine

/-- Settles O57, from `run_eq_iff` at each kind of end and `run_eq_outOfFuel_iff`; more fuel leaves the stopping step
within the fuel. -/
theorem runEndsAsItsFirstStoppingStep : Obligations.RunEndsAsItsFirstStoppingStep := by
  unfold Obligations.RunEndsAsItsFirstStoppingStep
  refine ⟨fun s t n => ?_, fun s n r => ?_, fun s n r => ?_, fun s t n => run_eq_outOfFuel_iff, ?_⟩
  · simp only [run_eq_iff (e := .halt t) (by simp), stopOf_eq_halt_iff, step_halts_iff]
  · simp only [run_eq_iff (e := .fault r) (by simp), stopOf_eq_fault_iff]
  · simp only [run_eq_iff (e := .refused r) (by simp), stopOf_eq_refused_iff]
  · intro s n m e hrun he hnm
    obtain ⟨k, u, hk, hu⟩ := (run_eq_iff he).1 hrun
    exact (run_eq_iff he).2 ⟨k, u, by omega, hu⟩

end

section
/-! Proofs of the statements about the state: UpdateZN, power-on and reset, bits 4 and 5 of P, what an instruction
leaves unchanged, the top of memory under TOP_POLICY = refuse, the flags that are storage only, and the one-byte pushes
and pulls. -/

open Sys2Proof Sys2Proof.Machine

/-! ### UpdateZN, power-on and reset (R20, R30, R220, R223) -/

namespace Sys2Proof.Machine

theorem alwaysOne_statusReset : Config.statusReset &&& Config.statusAlwaysOne = Config.statusAlwaysOne := by decide

/-- Bit 7 of a byte is its sign: set from 128 on. -/
theorem getLsbD_seven_eq_decide (r : Byte) : r.getLsbD 7 = decide (128 ≤ r.toNat) := by
  simpa [BitVec.msb_eq_getLsbD_last] using BitVec.msb_eq_decide r

end Sys2Proof.Machine

/-- Settles O58, flag by flag: `updateZN` writes Z, then N, and `getLsbD_putFlag` gives every bit after a write. -/
theorem updateZNWritesZAndNOnly : Obligations.UpdateZNWritesZAndNOnly := by
  intro r p
  refine ⟨?_, ?_, fun k hz hn => ?_⟩
  · have hzero : (r == 0#8) = decide (r.toNat = 0) := by
      rw [beq_eq_decide, decide_eq_decide, BitVec.toNat_eq]
      rfl
    rw [updateZN, flag_putFlag_ne (by decide), flag_putFlag_same, hzero]
  · rw [updateZN, flag_putFlag_same, getLsbD_seven_eq_decide]
  · simp [updateZN, getLsbD_putFlag, Flag.bit, hz, hn]

/-- Settles O12: both halves of the invariant are computed from the literal reset state. -/
theorem resetStateSatisfiesTheInvariant : Obligations.ResetStateSatisfiesTheInvariant :=
  ⟨State.reset_wf, alwaysOne_statusReset⟩

/-- Settles O52: the fields are those of the literal, and no address is listed in its memory. -/
theorem powerOnIsZeroed : Obligations.PowerOnIsZeroed :=
  ⟨rfl, rfl, rfl, rfl, rfl, rfl, fun _ => rfl⟩

/-- Settles O53: `resetOp` names exactly these fields; in the empty memory of power-on the vector holds 0x0000. -/
theorem resetSetsRegistersAndKeepsMemory : Obligations.ResetSetsRegistersAndKeepsMemory :=
  ⟨fun _ => rfl, by decide⟩

/-! ### Bits 4 and 5 of P (R18) -/

namespace Sys2Proof.Machine

theorem exec_keeps_alwaysOne {i : Instr} {s t : State} (hp : s.p &&& Config.statusAlwaysOne = Config.statusAlwaysOne)
    (h : exec i s = .next t) : t.p &&& Config.statusAlwaysOne = Config.statusAlwaysOne := by
  obtain ⟨u, pc, e, hu, rfl, -⟩ := exec_effect h
  exact hu.alwaysOne hp

@[simp] theorem State.storeBytes_p (s : State) (b : Addr) (bs : List Byte) : (s.storeBytes b bs).p = s.p := by
  induction bs generalizing s b with
  | nil => rfl
  | cons v bs ih => exact ih (s.write b v) _

theorem State.write16_p {s t : State} {b v : Addr} (h : s.write16 b v = some t) : t.p = s.p := by
  obtain ⟨b1, -, rfl⟩ := Option.map_eq_some_iff.1 h
  rfl

theorem State.memWrite16_eq_next_iff {s t : State} {b v : Addr} :
    s.memWrite16 b v = .next t ↔ s.write16 b v = some t := by
  unfold State.memWrite16
  split
  · next h => simp [h]
  · next u h => simp [h]

theorem State.load_eq_next_iff {s t : State} {program : List Byte} :
    s.load program = .next t ↔ program.length ≤ Config.loadLimit ∧
      (s.storeBytes Config.loadBase program).write16 Config.resetVector Config.loadBase = some t := by
  unfold State.load
  split
  · next hlong => simp [Nat.not_le.2 hlong]
  · next hshort =>
    split
    · next h => simp [h]
    · next u h => simp [h, Nat.not_lt.1 hshort]

end Sys2Proof.Machine

/-- Settles O14: instructions by their effect, a step as its instruction; the host operations leave P as it is, but for
`reset`, which writes 0x30. -/
theorem statusBits4And5AreAlwaysOne : Obligations.StatusBits4And5AreAlwaysOne := by
  refine ⟨alwaysOne_statusReset, fun _ => alwaysOne_statusReset, fun s t hp h => ?_⟩
  rcases h with ⟨i, h⟩ | h | ⟨program, h⟩ | ⟨b, v, rfl⟩ | ⟨b, v, h⟩
  · exact exec_keeps_alwaysOne hp h
  · obtain ⟨i, -, -, hexec⟩ := step_eq_next_iff.1 h
    exact exec_keeps_alwaysOne hp hexec
  · obtain ⟨-, hwrite⟩ := State.load_eq_next_iff.1 h
    rw [State.write16_p hwrite, State.storeBytes_p, hp]
  · exact hp
  · rw [State.write16_p (State.memWrite16_eq_next_iff.1 h), hp]

/-! ### What an instruction leaves unchanged (R10, R22, R26) -/

namespace Sys2Proof.Machine

/-- The effects that move SP are those of TXS, the pushes and the pops. -/
theorem Effect.sp_eq {mn : Mnemonic} {o : Operand} {s u : State} (h : Effect mn o s u)
    (hmn : mn ∉ [Mnemonic.txs, .pha, .php, .pla, .plp, .jsr, .rts, .rti]) : u.sp = s.sp := by
  cases h
  case txs | pha | php | pla | plp | jsr | rts | rti => exact absurd (by decide) hmn
  all_goals rfl

theorem Effect.a_eq {mn : Mnemonic} {o : Operand} {s u : State} (h : Effect mn o s u)
    (hmn : mn ∉ [Mnemonic.lda, .adc, .sbc, .and, .ora, .eor, .txa, .tya, .pla]) (ho : o ≠ .acc) : u.a = s.a := by
  cases h
  case lda | adc | sbc | and | ora | eor | txa | tya | pla => exact absurd (by decide) hmn
  case shiftA => exact absurd rfl ho
  all_goals rfl

theorem Effect.x_eq {mn : Mnemonic} {o : Operand} {s u : State} (h : Effect mn o s u)
    (hmn : mn ∉ [Mnemonic.ldx, .inx, .dex, .tax, .tsx]) : u.x = s.x := by
  cases h
  case ldx | inx | dex | tax | tsx => exact absurd (by decide) hmn
  all_goals rfl

theorem Effect.y_eq {mn : Mnemonic} {o : Operand} {s u : State} (h : Effect mn o s u)
    (hmn : mn ∉ [Mnemonic.ldy, .iny, .dey, .tay]) : u.y = s.y := by
  cases h
  case ldy | iny | dey | tay => exact absurd (by decide) hmn
  all_goals rfl

/-- A shift stores to memory only where its operand is not the accumulator. -/
theorem Effect.mem_eq {mn : Mnemonic} {o : Operand} {s u : State} (h : Effect mn o s u)
    (hmn : mn ∉ [Mnemonic.sta, .stx, .sty, .inc, .dec, .pha, .php, .jsr])
    (hshift : mn ∈ [Mnemonic.asl, .lsr, .rol, .ror] → o = .acc) : u.mem = s.mem := by
  cases h
  case sta | stx | sty | inc | dec | pha | php | jsr => exact absurd (by decide) hmn
  case shiftMemory hmem ho => exact absurd (hshift hmem) ho
  all_goals rfl

/-- The mnemonics with an ACC form (R92). -/
theorem Instr.mnemonic_mem_of_acc {i : Instr} (h : i.operand = .acc) :
    i.mnemonic ∈ [Mnemonic.asl, .lsr, .rol, .ror] := by
  have hform := i.form_mem_formsOf
  rw [h, Operand.form] at hform
  revert hform
  cases i.mnemonic <;> decide

/-- The flags each mnemonic can write: the "written by" column of R22, read by instruction. -/
def flagsWrittenBy : Mnemonic → List Flag
  | .adc | .sbc => [.c, .z, .v, .n]
  | .asl | .lsr | .rol | .ror | .cmp | .cpx | .cpy => [.c, .z, .n]
  | .bit => [.z, .v, .n]
  | .lda | .ldx | .ldy | .and | .ora | .eor | .inc | .dec | .inx | .iny | .dex | .dey | .tax | .tay | .txa | .tya
  | .tsx | .pla => [.z, .n]
  | .sec | .clc => [.c]
  | .sei | .cli => [.i]
  | .sed | .cld => [.d]
  | .clv => [.v]
  | .plp | .rti => [.c, .z, .i, .d, .v, .n]
  | _ => []

theorem flagsWrittenBy_of_shift {mn : Mnemonic} (h : mn ∈ [Mnemonic.asl, .lsr, .rol, .ror]) :
    flagsWrittenBy mn = [.c, .z, .n] := by
  revert h
  cases mn <;> decide

theorem flag_updateZN_of_notMem {f : Flag} (hf : f ∉ [Flag.z, .n]) (r p : Byte) :
    flag f (updateZN r p) = flag f p := by
  simp_all [updateZN, flag_putFlag_ne]

theorem flag_addFlags_of_notMem {f : Flag} (hf : f ∉ [Flag.c, .z, .v, .n]) (a m p : Byte) :
    flag f (addFlags a m p) = flag f p := by
  simp_all [addFlags, updateZN, flag_putFlag_ne]

theorem flag_bitFlags_of_notMem {f : Flag} (hf : f ∉ [Flag.z, .v, .n]) (a m p : Byte) :
    flag f (bitFlags a m p) = flag f p := by
  simp_all [bitFlags, flag_putFlag_ne]

theorem flag_compareFlags_of_notMem {f : Flag} (hf : f ∉ [Flag.c, .z, .n]) (r m p : Byte) :
    flag f (compareFlags r m p) = flag f p := by
  simp_all [compareFlags, flag_putFlag_ne]

theorem flag_shiftFlags_of_notMem {f : Flag} (hf : f ∉ [Flag.c, .z, .n]) (op : ShiftOp) (v p : Byte) :
    flag f (shiftFlags op v p) = flag f p := by
  simp_all [shiftFlags, updateZN, flag_putFlag_ne]

/-- An effect leaves every flag as it is that its mnemonic does not write. -/
theorem Effect.flag_eq {mn : Mnemonic} {o : Operand} {s u : State} (h : Effect mn o s u) {f : Flag}
    (hf : f ∉ flagsWrittenBy mn) : flag f u.p = flag f s.p := by
  cases h
  case adc | sbc => exact flag_addFlags_of_notMem hf _ _ _
  case bit => exact flag_bitFlags_of_notMem hf _ _ _
  case cmp | cpx | cpy => exact flag_compareFlags_of_notMem hf _ _ _
  case shiftA hmn | shiftMemory hmn _ =>
    rw [flagsWrittenBy_of_shift hmn] at hf
    exact flag_shiftFlags_of_notMem hf _ _ _
  case sec | sei | sed => exact flag_putFlag_ne (List.ne_of_not_mem_cons hf) true _
  case clc | cli | cld | clv => exact flag_putFlag_ne (List.ne_of_not_mem_cons hf) false _
  case plp | rti => exact absurd (by cases f <;> decide) hf
  case keep | sta | stx | sty | txs | pha | php | jsr | rts => rfl
  all_goals exact flag_updateZN_of_notMem hf _ _

end Sys2Proof.Machine

/-- Settles O15: `Effect.sp_eq` for what does not move SP, and the two transfers as they stand. -/
theorem stackPointerChangedOnlyByTxsPushesAndPops : Obligations.StackPointerChangedOnlyByTxsPushesAndPops := by
  refine ⟨fun i s t h hmn => ?_, fun s pc' hpc => ⟨?_, ?_⟩⟩
  · obtain ⟨u, pc, e, hu, rfl, -⟩ := exec_effect h
    exact hu.sp_eq hmn
  · exact ⟨_, State.advance_eq_next_iff.2 ⟨pc', hpc, rfl⟩, rfl⟩
  · exact ⟨_, transfer_eq_next_iff.2 ⟨pc', hpc, rfl⟩, rfl⟩

/-- Settles O16: a mnemonic that a clause does not list is one whose `flagsWrittenBy` lacks the flag. -/
theorem flagsWrittenOnlyByTheListedInstructions : Obligations.FlagsWrittenOnlyByTheListedInstructions := by
  intro i s t h
  obtain ⟨u, pc, e, hu, rfl, -⟩ := exec_effect h
  have key (f : Flag) : f ∉ flagsWrittenBy i.mnemonic → flag f u.p = flag f s.p := hu.flag_eq
  refine ⟨fun hmn => key .c ?_, fun hmn => ⟨key .z ?_, key .n ?_⟩, fun hmn => key .i ?_, fun hmn => key .d ?_,
    fun hmn => key .v ?_⟩ <;>
  · revert hmn
    cases i.mnemonic <;> decide

/-- Settles O17: one frame lemma of `Effect` for each register and for memory; the ACC forms are shifts. -/
theorem registersAndMemoryWrittenOnlyByTheListedInstructions :
    Obligations.RegistersAndMemoryWrittenOnlyByTheListedInstructions := by
  intro i s t h
  obtain ⟨u, pc, e, hu, rfl, -⟩ := exec_effect h
  refine ⟨hu.a_eq, hu.x_eq, hu.y_eq, fun hmem => hu.mem_eq ?_ ?_⟩
  · rcases hmem with hmn | hacc
    · exact fun hin => hmn (by revert hin; cases i.mnemonic <;> decide)
    · have hshift := Instr.mnemonic_mem_of_acc hacc
      revert hshift
      cases i.mnemonic <;> decide
  · intro hshift
    exact hmem.resolve_left fun hmn => hmn (by revert hshift; cases i.mnemonic <;> decide)

/-! ### The top of memory under TOP_POLICY = refuse (R16, R45, R207) -/

namespace Sys2Proof.Machine

/-- An instruction of a mnemonic with no form but IMP is one byte long. -/
theorem Operand.len_of_form_imp {o : Operand} (h : o.form ∈ [OperandForm.imp]) : o.len = 1 := by
  rw [Operand.len, List.mem_singleton.1 h]
  rfl

/-- A completed instruction that is no control transfer leaves PC at the address after it (R75, R76). -/
theorem exec_pc_of_not_transfer {i : Instr} {s t : State} (hmn : i.mnemonic ∉ transferMnemonics)
    (h : exec i s = .next t) : s.inc16 s.pc i.len = some t.pc := by
  have hform := i.form_mem_formsOf
  rw [exec_eq_meaning] at h
  rw [Instr.len]
  generalize i.operand = o at *
  cases hm : i.mnemonic <;> rw [hm] at h hform hmn <;> simp only [meaning] at h
  case lda | ldx | ldy | sta | stx | sty | adc | sbc | and | ora | eor | bit | cmp | cpx | cpy | inc | dec =>
    obtain ⟨ea, -, -, hadvance⟩ := withAddress_eq_next_iff.1 h
    obtain ⟨pc, hpc, rfl⟩ := State.advance_eq_next_iff.1 hadvance
    exact hpc
  case asl | lsr | rol | ror =>
    split at h
    · next hacc =>
      obtain ⟨pc, hpc, rfl⟩ := shiftA_eq_next_iff.1 h
      rw [hacc]
      exact hpc
    · obtain ⟨_, -, pc, hpc, rfl⟩ := shiftMemory_eq_next_iff.1 h
      exact hpc
  case jmp | jsr | rts | rti | bpl | bmi | bvc | bvs | bcc | bcs | bne | beq => exact absurd (by decide) hmn
  all_goals
    obtain ⟨pc, hpc, rfl⟩ := State.finish_eq_next_iff.1 h
    rw [Operand.len_of_form_imp hform]
    exact hpc

/-- An instruction is refused exactly where it does not complete. -/
theorem exec_eq_refused_iff (i : Instr) (s : State) :
    exec i s = .refused .addressWrap ↔ ∀ t, exec i s ≠ .next t := by
  rcases exec_nextOrRefused i s with ⟨t, h⟩ | ⟨-, h⟩ <;> simp [h, refuseAddressWrap]

/-- Under `refuse` a forward `Inc16` has an answer exactly in range. -/
theorem State.inc16_eq_none_iff_of_refuse {s : State} (hr : s.topPolicy = .refuse) (v : Addr) (k : Nat) :
    s.inc16 v k = none ↔ 0xFFFF < v.toNat + k := by
  rw [State.inc16, inc16_eq_none_iff]
  constructor
  · rintro ⟨-, h⟩
    omega
  · exact fun h => ⟨hr, by omega⟩

theorem exec_of_mem_branchTable {rel : Byte} {e : Instr × Flag × Bool} (he : e ∈ branchTable rel) (s : State) :
    exec e.1 s = branch e.2.1 e.2.2 rel s := by
  simp only [branchTable, List.mem_cons, List.not_mem_nil, or_false] at he
  rcases he with rfl | rfl | rfl | rfl | rfl | rfl | rfl | rfl <;> rfl

/-- JMP and JSR complete exactly where their last operand byte, at `Inc16(pc0, 2)`, has an address. -/
theorem exec_jmp_jsr_completes_iff {i : Instr} (hi : i.mnemonic = .jmp ∨ i.mnemonic = .jsr) (s : State) :
    (∃ t, exec i s = .next t) ↔ (s.inc16 s.pc (2 : Nat)).isSome := by
  cases i <;> simp only [Instr.mnemonic, reduceCtorEq, or_self] at hi
  case jmpAbs addr | jmpInd addr =>
    simp [exec, execJmpAbs, execJmpInd, jumpTo_eq_next_iff, effectiveAddress, Operand.len, Operand.form,
      OperandForm.len]
  case jsr addr =>
    simp [exec, execJsr, jumpToSubroutine_eq_next_iff, Option.isSome_iff_exists]

end Sys2Proof.Machine

/-- Settles O11: where an instruction does not complete it is refused, and completing needs the `Inc16` of its end, of
the branch's own length, or of the last operand byte. -/
theorem refusePolicyAtTheTopOfMemory : Obligations.RefusePolicyAtTheTopOfMemory := by
  refine ⟨fun s hr hpc => ?_, fun i s hr hmn hend => ?_, fun s rel e he hr hpc => ?_, fun i s hr hi => ?_⟩
  · have hinc : s.inc16 s.pc 1 = none := (State.inc16_eq_none_iff_of_refuse hr s.pc 1).2 (by simp [hpc])
    rcases step_cases s with ⟨-, hstep⟩ | ⟨hsome, -⟩ | ⟨i, hsome, -⟩
    · exact hstep
    · simp [hinc] at hsome
    · simp [hinc] at hsome
  · refine (exec_eq_refused_iff i s).2 fun t h => ?_
    have hnone := (State.inc16_eq_none_iff_of_refuse hr s.pc i.len).2 hend
    simp [exec_pc_of_not_transfer hmn h] at hnone
  · refine (exec_eq_refused_iff e.1 s).2 fun t h => ?_
    rw [exec_of_mem_branchTable he] at h
    obtain ⟨next, hnext, -⟩ := branch_eq_next_iff.1 h
    have hnone : s.inc16 s.pc 2 = none := (State.inc16_eq_none_iff_of_refuse hr s.pc 2).2 (by omega)
    simp [hnone] at hnext
  · rw [exec_eq_refused_iff, ← not_exists, exec_jmp_jsr_completes_iff hi, Option.not_isSome_iff_eq_none,
      State.inc16_eq_none_iff_of_refuse hr]
    omega

/-! ### The flags I and D are storage only (R23, R24) -/

namespace Sys2Proof.Machine

theorem putFlag_comm {f g : Flag} (h : f ≠ g) (d e : Bool) (p : Byte) :
    putFlag f d (putFlag g e p) = putFlag g e (putFlag f d p) := by
  have hbit : f.bit ≠ g.bit := fun heq => h (Flag.bit_injective heq)
  refine BitVec.eq_of_getLsbD_eq fun k _ => ?_
  simp only [getLsbD_putFlag]
  split
  · next hk => simp [hk, hbit]
  · rfl

/-- P with other values in I and D. -/
def putIAndD (i d : Bool) (p : Byte) : Byte := putFlag .i i (putFlag .d d p)

variable (i d : Bool)

theorem flag_putIAndD {f : Flag} (hi : f ≠ .i) (hd : f ≠ .d) (p : Byte) : flag f (putIAndD i d p) = flag f p := by
  rw [putIAndD, flag_putFlag_ne hi, flag_putFlag_ne hd]

theorem putFlag_putIAndD {f : Flag} (hi : f ≠ .i) (hd : f ≠ .d) (e : Bool) (p : Byte) :
    putFlag f e (putIAndD i d p) = putIAndD i d (putFlag f e p) := by
  rw [putIAndD, putFlag_comm hi, putFlag_comm hd, putIAndD]

/-! Every flag computation but those of I and D is made of writes to the other four flags. -/

@[simp] theorem flag_c_putIAndD (p : Byte) : flag .c (putIAndD i d p) = flag .c p :=
  flag_putIAndD i d (by decide) (by decide) p

@[simp] theorem updateZN_putIAndD (r p : Byte) : updateZN r (putIAndD i d p) = putIAndD i d (updateZN r p) := by
  simp [updateZN, putFlag_putIAndD]

@[simp] theorem addFlags_putIAndD (a m p : Byte) : addFlags a m (putIAndD i d p) = putIAndD i d (addFlags a m p) := by
  simp [addFlags, putFlag_putIAndD]

@[simp] theorem bitFlags_putIAndD (a m p : Byte) : bitFlags a m (putIAndD i d p) = putIAndD i d (bitFlags a m p) := by
  simp [bitFlags, putFlag_putIAndD]

@[simp] theorem compareFlags_putIAndD (r m p : Byte) :
    compareFlags r m (putIAndD i d p) = putIAndD i d (compareFlags r m p) := by
  simp [compareFlags, putFlag_putIAndD]

@[simp] theorem shiftFlags_putIAndD (op : ShiftOp) (v p : Byte) :
    shiftFlags op v (putIAndD i d p) = putIAndD i d (shiftFlags op v p) := by
  simp [shiftFlags, putFlag_putIAndD]

variable (s : State)

@[simp] theorem withIAndD_a : (withIAndD s i d).a = s.a := rfl
@[simp] theorem withIAndD_x : (withIAndD s i d).x = s.x := rfl
@[simp] theorem withIAndD_y : (withIAndD s i d).y = s.y := rfl
@[simp] theorem withIAndD_p : (withIAndD s i d).p = putIAndD i d s.p := rfl
@[simp] theorem withIAndD_sp : (withIAndD s i d).sp = s.sp := rfl
@[simp] theorem withIAndD_pc : (withIAndD s i d).pc = s.pc := rfl
@[simp] theorem withIAndD_read (b : Addr) : (withIAndD s i d).read b = s.read b := rfl
@[simp] theorem withIAndD_inc16 (v : Addr) (k : Int) : (withIAndD s i d).inc16 v k = s.inc16 v k := rfl
@[simp] theorem withIAndD_reg (r : Reg) : (withIAndD s i d).reg r = s.reg r := by cases r <;> rfl
@[simp] theorem withIAndD_pop_fst : (withIAndD s i d).pop.1 = s.pop.1 := rfl
@[simp] theorem withIAndD_pop16_fst : (withIAndD s i d).pop16.1 = s.pop16.1 := rfl

/-! An update that leaves P alone, or writes it by a computation above, comes before the change of I and D as well as
after it. -/

@[simp] theorem withIAndD_setA (v : Byte) : (withIAndD s i d).setA v = withIAndD (s.setA v) i d := rfl
@[simp] theorem withIAndD_setReg (r : Reg) (v : Byte) :
    (withIAndD s i d).setReg r v = withIAndD (s.setReg r v) i d := by cases r <;> rfl
@[simp] theorem withIAndD_write (b : Addr) (v : Byte) : (withIAndD s i d).write b v = withIAndD (s.write b v) i d := rfl
@[simp] theorem withIAndD_push (v : Byte) : (withIAndD s i d).push v = withIAndD (s.push v) i d := rfl
@[simp] theorem withIAndD_push16 (v : Addr) : (withIAndD s i d).push16 v = withIAndD (s.push16 v) i d := rfl
@[simp] theorem withIAndD_pop_snd : (withIAndD s i d).pop.2 = withIAndD s.pop.2 i d := rfl
@[simp] theorem withIAndD_pop16_snd : (withIAndD s i d).pop16.2 = withIAndD s.pop16.2 i d := rfl
@[simp] theorem withIAndD_setP (p : Byte) :
    (withIAndD s i d).setP (putIAndD i d p) = withIAndD (s.setP p) i d := rfl

@[simp] theorem withIAndD_setRegZN (r : Reg) (v : Byte) :
    (withIAndD s i d).setRegZN r v = withIAndD (s.setRegZN r v) i d := by
  simp [State.setRegZN]

@[simp] theorem withIAndD_effectiveAddress (o : Operand) :
    effectiveAddress o (withIAndD s i d) = effectiveAddress o s := by
  cases o <;> rfl

@[simp] theorem withIAndD_dataAt (o : Operand) (ea : Addr) : dataAt o (withIAndD s i d) ea = dataAt o s ea := by
  cases o <;> rfl

/-- The answer with other values in I and D of the next state, if it is one. -/
def resultWithIAndD : Result → Result
  | .next t => .next (withIAndD t i d)
  | .fault r => .fault r
  | .refused r => .refused r

@[simp] theorem finish_withIAndD (n : Nat) (e : StepEnd) :
    (withIAndD s i d).finish n e = resultWithIAndD i d (s.finish n e) := by
  unfold State.finish
  rw [withIAndD_inc16, withIAndD_pc]
  cases s.inc16 s.pc n <;> rfl

@[simp] theorem advance_withIAndD (n : Nat) : (withIAndD s i d).advance n = resultWithIAndD i d (s.advance n) :=
  finish_withIAndD i d s n .next

variable {s}

theorem withAddress_withIAndD {mn : Mnemonic} {o : Operand} {k k' : Addr → Result}
    (hk : ∀ ea, k' ea = resultWithIAndD i d (k ea)) :
    withAddress mn o (withIAndD s i d) k' = resultWithIAndD i d (withAddress mn o s k) := by
  unfold withAddress
  rw [withIAndD_effectiveAddress]
  cases effectiveAddress o s with
  | none => rfl
  | some ea =>
    rw [withIAndD_inc16, withIAndD_pc]
    cases s.inc16 s.pc (o.len - 1 : Nat) with
    | none => rfl
    | some _ => exact hk ea

theorem changeFlag_withIAndD {g : Byte → Byte} (hg : ∀ p, g (putIAndD i d p) = putIAndD i d (g p)) :
    changeFlag g (withIAndD s i d) = resultWithIAndD i d (changeFlag g s) := by
  simp [changeFlag, hg]

theorem branch_withIAndD {f : Flag} (hi : f ≠ .i) (hd : f ≠ .d) (value : Bool) (rel : Byte) :
    branch f value rel (withIAndD s i d) = resultWithIAndD i d (branch f value rel s) := by
  unfold branch
  rw [withIAndD_inc16, withIAndD_pc, withIAndD_p, flag_putIAndD i d hi hd, advance_withIAndD]
  cases s.inc16 s.pc 2 with
  | none => rfl
  | some next =>
    simp only [withIAndD_inc16]
    split
    · cases s.inc16 next (sext16 rel) <;> rfl
    · rfl

theorem returnFromSubroutine_withIAndD :
    returnFromSubroutine (withIAndD s i d) = resultWithIAndD i d (returnFromSubroutine s) := by
  unfold returnFromSubroutine
  rw [withIAndD_inc16, withIAndD_pop16_fst, withIAndD_pop16_snd]
  cases s.inc16 s.pop16.1 1 <;> rfl

theorem jumpToSubroutine_withIAndD (o : Operand) :
    jumpToSubroutine o (withIAndD s i d) = resultWithIAndD i d (jumpToSubroutine o s) := by
  refine withAddress_withIAndD i d fun ea => ?_
  rw [withIAndD_inc16, withIAndD_pc]
  cases s.inc16 s.pc 2 <;> rfl

/-- An instruction that neither writes nor pushes I and D answers the same whatever they hold (R23, R24). -/
theorem meaning_withIAndD {mn : Mnemonic} (hmn : mn ∉ [Mnemonic.php, .plp, .rti, .sei, .cli, .sed, .cld])
    (o : Operand) : meaning mn o (withIAndD s i d) = resultWithIAndD i d (meaning mn o s) := by
  cases mn <;> simp only [meaning]
  case php | plp | rti | sei | cli | sed | cld => exact absurd (by decide) hmn
  case lda | ldx | ldy | sta | stx | sty | adc | sbc | and | ora | eor | bit | cmp | cpx | cpy | inc | dec =>
    exact withAddress_withIAndD i d fun ea => by simp
  case asl | lsr | rol | ror =>
    split
    · simp [shiftA]
    · exact withAddress_withIAndD i d fun ea => by simp
  case bcc | bcs | beq | bne | bmi | bpl | bvc | bvs => exact branch_withIAndD i d (by decide) (by decide) _ _
  case jmp => exact withAddress_withIAndD i d fun ea => rfl
  case jsr => exact jumpToSubroutine_withIAndD i d o
  case rts => exact returnFromSubroutine_withIAndD i d
  case brk => exact finish_withIAndD i d s 1 .halt
  case sec => exact changeFlag_withIAndD i d fun p => putFlag_putIAndD i d (by decide) (by decide) true p
  case clc | clv => exact changeFlag_withIAndD i d fun p => putFlag_putIAndD i d (by decide) (by decide) false p
  case tax | tay | txa | tya | tsx => simp [transfer]
  case inx | iny | dex | dey => simp [stepRegister]
  all_goals simp [pushByte, pullA]

end Sys2Proof.Machine

/-- Settles O18: by `meaning_withIAndD` at an answer that is a next state. -/
theorem interruptAndDecimalFlagsHaveNoEffect : Obligations.InterruptAndDecimalFlagsHaveNoEffect := by
  intro i s t fi fd hmn h
  rw [exec_eq_meaning] at h ⊢
  rw [meaning_withIAndD fi fd hmn, h]
  rfl

/-! ### The pushes and pulls of one byte (R50, R51, R165 to R168) -/

namespace Sys2Proof.Machine

/-- What the rows of the opcode table say of a mnemonic, its instructions' encodings do too. -/
theorem encodedAs_of_rows {mn : Mnemonic} {encoding : List (OperandForm × Byte)}
    (hrows : ∀ r ∈ opcodeTable, r.descriptor.mnemonic = mn → (r.descriptor.form, r.descriptor.code) ∈ encoding)
    (hdecode : ∀ e ∈ encoding, (descriptorOf e.2).map (fun d => (d.mnemonic, d.form)) = some (mn, e.1)) :
    EncodedAs mn encoding := by
  refine ⟨fun i hi => ?_, hdecode⟩
  obtain ⟨r, hr, hmn, hform, -⟩ := lookupOpcode_opcode i
  obtain ⟨hmem, hcode, -⟩ := lookupOpcode_some hr
  rw [← hform, ← hcode]
  exact hrows r hmem (hmn.trans hi)

/-- A push stores its byte at the stack address and changes no other. -/
theorem storedAt_push (s : State) (v : Byte) : StoredAt s (s.push v) (stackAddr s.sp) v :=
  ⟨s.read_write_same _ v, fun _ hb => s.read_write_ne hb v⟩

/-- A pop undoes a push but for the byte left in memory. -/
theorem State.pop_push (s : State) (v : Byte) : (s.push v).pop = (v, { s with mem := (s.push v).mem }) := by
  have hsp : s.sp - 1#8 + 1#8 = s.sp := BitVec.sub_add_cancel s.sp 1#8
  have hread : (s.push v).read (stackAddr s.sp) = v := (storedAt_push s v).1
  rw [State.pop, State.push_sp, hsp, hread]
  simp only [State.push, State.setSp, State.write]

/-- A pop neither reads nor writes PC and `lastStep`. -/
theorem State.pop_endStep (s : State) (pc : Addr) (e : StepEnd) :
    (s.endStep pc e).pop = (s.pop.1, s.pop.2.endStep pc e) := rfl

/-- LoadP gives back a P whose bits 4 and 5 are 1 (R18, R21). -/
theorem loadP_of_alwaysOne {p : Byte} (h : p &&& Config.statusAlwaysOne = Config.statusAlwaysOne) : loadP p = p := by
  revert p
  decide +kernel

end Sys2Proof.Machine

/-- Settles O41: both are a push of one byte, then the advance. -/
theorem pushesStoreOneByteAndDecrementSp : Obligations.PushesStoreOneByteAndDecrementSp := by
  refine ⟨encodedAs_of_rows (by decide +kernel) (by decide +kernel),
    encodedAs_of_rows (by decide +kernel) (by decide +kernel), fun s pc' hpc => ?_⟩
  exact ⟨⟨_, pushByte_eq_next_iff.2 ⟨pc', hpc, rfl⟩, storedAt_push s s.a, rfl⟩,
    ⟨_, pushByte_eq_next_iff.2 ⟨pc', hpc, rfl⟩, storedAt_push s s.p, rfl⟩⟩

/-- Settles O44: the pull finds the byte pushed (`State.pop_push`), and `loadP` keeps a P whose bits 4 and 5 are 1. -/
theorem pullAfterPushRestores : Obligations.PullAfterPushRestores := by
  intro s pc1 pc2 hp h1 h2
  refine ⟨⟨_, _, pushByte_eq_next_iff.2 ⟨pc1, h1, rfl⟩, pullP_eq_next_iff.2 ⟨pc2, h2, rfl⟩, ?_⟩,
    ⟨_, _, pushByte_eq_next_iff.2 ⟨pc1, h1, rfl⟩, pullA_eq_next_iff.2 ⟨pc2, h2, rfl⟩, ?_, ?_⟩⟩
  · rw [State.pop_endStep, State.pop_push, readP, loadP_of_alwaysOne hp]
    rfl
  · rw [State.pop_endStep, State.pop_push]
    exact updateZNWritesZAndNOnly s.a s.p
  · rw [State.pop_endStep, State.pop_push]
    rfl

end

section
/-! Proofs of the statements about memory and the stack: 16-bit accesses, runs of pushes and pops, Pop16 after Push16,
JSR and PLA. -/

open Sys2Proof Sys2Proof.Machine

/-! ### 16-bit accesses (R43, R44, R45) -/

namespace Sys2Proof.Machine

variable {s : State} {addr addr1 : Addr}

/-- Where the address after `addr` exists, it is `addr + 1` modulo 65536. -/
theorem State.eq_add_one_of_inc16 (h : s.inc16 addr 1 = some addr1) : addr1 = addr + 1#16 := by
  rw [eq_ofInt_of_inc16 h, BitVec.ofInt_add, BitVec.ofInt_natCast, BitVec.ofNat_toNat, BitVec.setWidth_eq]
  rfl

/-- Below the top of memory the address after `addr` exists under both policies. -/
theorem State.inc16_one_of_ne_top (s : State) (h : addr ≠ 0xFFFF#16) : s.inc16 addr 1 = some (addr + 1#16) := by
  have hlt : addr.toNat < 65535 := by bv_omega
  have hsome := inc16_of_range s.topPolicy (v := addr) (k := 1) (by omega) (by omega)
  rw [State.inc16, hsome, ← State.eq_add_one_of_inc16 (s := s) hsome]

theorem State.read16_of_inc16 (h : s.inc16 addr 1 = some addr1) :
    s.read16 addr = some (hiLo (s.read addr1) (s.read addr)) := by
  rw [State.read16, h, Option.map_some]

/-- Write16 stores the low byte at `addr`, the high byte at the address after it, and changes nothing else. -/
theorem State.write16_of_inc16 (v : Addr) (h : s.inc16 addr 1 = some addr1) :
    ∃ t, s.write16 addr v = some t ∧ t.read addr = loByte v ∧ t.read addr1 = hiByte v ∧
      (∀ b, b ≠ addr → b ≠ addr1 → t.read b = s.read b) ∧ t = { s with mem := t.mem } := by
  have hne : addr ≠ addr1 := by
    rw [State.eq_add_one_of_inc16 h]
    bv_omega
  refine ⟨(s.write addr (loByte v)).write addr1 (hiByte v), ?_, ?_, ?_, fun b hb hb1 => ?_, rfl⟩
  · rw [State.write16, h, Option.map_some]
  · rw [State.read_write_ne _ hne, State.read_write_same]
  · rw [State.read_write_same]
  · rw [State.read_write_ne _ hb1, State.read_write_ne _ hb]

end Sys2Proof.Machine

/-- Settles O51: below the top the address after `addr` is `addr + 1`; at 0xFFFF the policy says whether there is one,
and it is 0x0000. -/
theorem sixteenBitAccessesAreLittleEndian : Obligations.SixteenBitAccessesAreLittleEndian := by
  refine ⟨fun s addr h => ?_, fun s addr v h => ?_, fun s v hrefuse => ?_, fun s v hwrap => ?_⟩
  · exact State.read16_of_inc16 (s.inc16_one_of_ne_top h)
  · exact State.write16_of_inc16 v (s.inc16_one_of_ne_top h)
  · have hnone : s.inc16 0xFFFF#16 1 = none :=
      (State.inc16_eq_none_iff_of_refuse hrefuse 0xFFFF#16 1).2 (by decide)
    simp [State.read16, State.write16, hnone]
  · have hzero : s.inc16 0xFFFF#16 1 = some 0x0000#16 := by
      rw [State.inc16, hwrap]
      rfl
    obtain ⟨t, ht, hlo, hhi, -⟩ := State.write16_of_inc16 v hzero
    exact ⟨State.read16_of_inc16 hzero, t, ht, hlo, hhi⟩

/-! ### Runs of pushes and pops (R25, R50 to R54) -/

namespace Sys2Proof.Machine

/-- Pushes change no byte but those at the stack addresses they reach, counted down from SP modulo 256. -/
theorem read_pushAll_of_ne {s : State} {bs : List Byte} {b : Addr}
    (h : ∀ k < bs.length, b ≠ stackAddr (s.sp - BitVec.ofNat 8 k)) : (pushAll s bs).read b = s.read b := by
  induction bs generalizing s with
  | nil => rfl
  | cons v bs ih =>
    have hfirst : b ≠ stackAddr s.sp := by simpa using h 0 (by simp)
    have hrest : ∀ k < bs.length, b ≠ stackAddr ((s.push v).sp - BitVec.ofNat 8 k) := by
      intro k hk
      have hsp : s.sp - 1#8 - BitVec.ofNat 8 k = s.sp - BitVec.ofNat 8 (k + 1) := by
        rw [BitVec.sub_sub, Nat.add_comm, BitVec.ofNat_add]
      rw [State.push_sp, hsp]
      exact h (k + 1) (by simpa using hk)
    calc (pushAll (s.push v) bs).read b = (s.push v).read b := ih hrest
      _ = s.read b := (storedAt_push s v).2 b hfirst

/-- The last of `n + 1` pops, split off. -/
theorem popMany_succ (n : Nat) (s : State) :
    popMany (n + 1) s = ((popMany n s).1 ++ [(popMany n s).2.pop.1], (popMany n s).2.pop.2) := by
  induction n generalizing s with
  | zero => rfl
  | succ n ih => rw [popMany, ih s.pop.2, popMany, List.cons_append]

/-- Fewer than 256 pushes leave the byte pushed before them in its place. -/
theorem read_pushAll_push {s : State} {v : Byte} {bs : List Byte} (h : bs.length < 256) :
    (pushAll (s.push v) bs).read (stackAddr s.sp) = v := by
  rw [read_pushAll_of_ne fun k hk => ?_]
  · exact (storedAt_push s v).1
  · intro heq
    have hsp := stackAddr_injective heq
    rw [State.push_sp] at hsp
    bv_omega

/-- A pop undoes a push in whatever memory still holds the byte pushed. -/
theorem State.pop_push_withMem {s u : State} {v : Byte} (h : u.read (stackAddr s.sp) = v) :
    State.pop { s.push v with mem := u.mem } = (v, { s with mem := u.mem }) := by
  have hsp : s.sp - 1#8 + 1#8 = s.sp := BitVec.sub_add_cancel s.sp 1#8
  simp only [State.pop, State.push_sp, hsp, State.setSp]
  exact congrArg (·, { s with mem := u.mem }) h

end Sys2Proof.Machine

/-- Settles O46, by induction on the bytes: the pops of all bytes but the first leave SP just below the first, which
fewer than 256 further pushes have not reached (`read_pushAll_push`). -/
theorem popsReversePushesUpTo256Bytes : Obligations.PopsReversePushesUpTo256Bytes := by
  intro s bs hlen
  induction bs generalizing s with
  | nil => rfl
  | cons v bs ih =>
    have hlt : bs.length < 256 := hlen
    have hlast := State.pop_push_withMem (read_pushAll_push (s := s) (v := v) hlt)
    have hpops := ih (s.push v) hlt.le
    change popMany (bs.length + 1) (pushAll (s.push v) bs) = _
    rw [popMany_succ, hpops, hlast, List.reverse_cons]
    rfl

/-! ### Push16 and Pop16 (R52, R53) -/

namespace Sys2Proof.Machine

theorem State.push16_eq_pushAll (s : State) (v : Addr) : s.push16 v = pushAll s [hiByte v, loByte v] := rfl

/-- Pop16 is two pops. -/
theorem popMany_two (s : State) : popMany 2 s = ([s.pop.1, s.pop.2.pop.1], s.pop16.2) := rfl

theorem State.read_push16_high (s : State) (v : Addr) : (s.push16 v).read (stackAddr s.sp) = hiByte v :=
  read_pushAll_push (bs := [loByte v]) (by simp)

theorem State.read_push16_low (s : State) (v : Addr) : (s.push16 v).read (stackAddr (s.sp - 1#8)) = loByte v :=
  (storedAt_push (s.push (hiByte v)) (loByte v)).1

theorem State.read_push16_of_ne (s : State) (v : Addr) {b : Addr} (hhigh : b ≠ stackAddr s.sp)
    (hlow : b ≠ stackAddr (s.sp - 1#8)) : (s.push16 v).read b = s.read b :=
  ((storedAt_push (s.push (hiByte v)) (loByte v)).2 b hlow).trans ((storedAt_push s (hiByte v)).2 b hhigh)

theorem ne_stackAddr_of_outside {b : Addr} (h : b.toNat < 0x0100 ∨ 0x01FF < b.toNat) (sp : Byte) :
    b ≠ stackAddr sp := by
  rintro rfl
  rw [stackAddr_toNat] at h
  omega

end Sys2Proof.Machine

/-- Settles O45: two pushes and two pops (O46), and `hiLo` puts the two bytes together again. -/
theorem pop16AfterPush16GivesTheWordBack : Obligations.Pop16AfterPush16GivesTheWordBack := by
  intro s v
  refine ⟨?_, fun b hb => s.read_push16_of_ne v (ne_stackAddr_of_outside hb _) (ne_stackAddr_of_outside hb _)⟩
  have hpops := popsReversePushesUpTo256Bytes s [hiByte v, loByte v] (by simp)
  rw [← State.push16_eq_pushAll, List.length_cons, List.length_singleton, popMany_two] at hpops
  obtain ⟨hbytes, hstate⟩ := Prod.mk.inj hpops
  obtain ⟨hlow, hhigh⟩ : (s.push16 v).pop.1 = loByte v ∧ (s.push16 v).pop.2.pop.1 = hiByte v := by
    simpa using hbytes
  rw [State.pop16, hlow, hhigh, hiLo_hiByte_loByte]
  exact congrArg (v, ·) hstate

/-! ### JSR (R161) and PLA (R167) -/

/-- Settles O37: the bytes are those of Push16, and two single decrements of SP are one of 2. -/
theorem jsrPushesTheReturnAddressMinusOne : Obligations.JsrPushesTheReturnAddressMinusOne := by
  refine ⟨encodedAs_of_rows (by decide +kernel) (by decide +kernel), fun s target last hlast => ?_⟩
  refine ⟨_, jumpToSubroutine_eq_next_iff.2 ⟨last, hlast, rfl⟩, s.read_push16_high last, s.read_push16_low last,
    fun b => s.read_push16_of_ne last, ?_⟩
  rw [← show s.sp - 1#8 - 1#8 = s.sp - 2#8 from BitVec.sub_sub s.sp 1#8 1#8]
  rfl

/-- Settles O42: PLA is a pop into A with UpdateZN, then the advance. -/
theorem plaPullsAAndUpdatesZN : Obligations.PlaPullsAAndUpdatesZN := by
  refine ⟨encodedAs_of_rows (by decide +kernel) (by decide +kernel), fun s pc' hpc => ?_⟩
  exact ⟨_, updateZNWritesZAndNOnly _ s.p, pullA_eq_next_iff.2 ⟨pc', hpc, rfl⟩⟩

end

section
/-! Proofs of the statements of the encoding: the decoder and the encoder are inverse to each other, the instruction a
step fetches, the resolver, and the branches. -/

open Sys2Proof Sys2Proof.Machine

/-! ### The rows of the opcode table (R72, R73) -/

namespace Sys2Proof

/-- Where no code appears twice, the row found under a code is the only one with it. -/
theorem filter_code_of_findRow {code : Byte} {rows : List OpcodeRow} {r : OpcodeRow}
    (hdistinct : codesDistinct (rows.map OpcodeRow.descriptor) = true) (h : findRow code rows = some r) :
    (rows.map OpcodeRow.descriptor).filter (fun d => d.code == code) = [r.descriptor] := by
  induction rows with
  | nil => cases h
  | cons q rows ih =>
    obtain ⟨hq, hrows⟩ := Bool.and_eq_true_iff.1 hdistinct
    by_cases hcode : q.descriptor.code = code
    · obtain rfl : q = r := by simpa [findRow, hcode] using h
      have hnone : (rows.map OpcodeRow.descriptor).filter (fun d => d.code == code) = [] := by
        simpa [hcode] using hq
      simp [hcode, hnone]
    · have hfind : findRow code rows = some r := by simpa [findRow, hcode] using h
      simp only [List.map_cons, List.filter_cons, beq_iff_eq, hcode, if_false, ih hrows hfind]

theorem opcodeTable_codesDistinct : codesDistinct (opcodeTable.map OpcodeRow.descriptor) = true :=
  (Bool.and_eq_true_iff.1 opcodeTable_wellFormed.2).2

/-- The operand of a form that the bytes after the opcode make (R71). -/
def Operand.ofBytes (b1 b2 : Byte) : OperandForm → Operand
  | .imp => .imp
  | .acc => .acc
  | .imm => .imm b1
  | .zp => .zp b1
  | .zpx => .zpx b1
  | .zpy => .zpy b1
  | .abs => .abs (hiLo b2 b1)
  | .abx => .abx (hiLo b2 b1)
  | .aby => .aby (hiLo b2 b1)
  | .ind => .ind (hiLo b2 b1)
  | .inx => .inx b1
  | .iny => .iny b1
  | .rel => .rel b1

/-- An operand is made by its own bytes. -/
theorem Operand.eq_ofBytes {o : Operand} {b1 b2 : Byte} (h : o.bytes = [b1, b2].take (o.len - 1)) :
    o = .ofBytes b1 b2 o.form := by
  cases o
  case imp | acc => rfl
  case imm | zp | zpx | zpy | inx | iny | rel =>
    cases h
    rfl
  case abs addr | abx addr | aby addr | ind addr =>
    cases h
    simp [Operand.form, Operand.ofBytes]

/-- The decoder reads every instruction back from its opcode and its operand bytes: for each constructor the table is
searched for its opcode, a literal, and the row found builds the same constructor from the same bytes. -/
theorem instrOf_opcode {i : Instr} {b1 b2 : Byte} (h : i.operand = .ofBytes b1 b2 i.operand.form) :
    instrOf i.opcode b1 b2 = some i := by
  cases i <;> cases h <;> simp only [Instr.opcode] <;> rfl

/-! ### The decoder and the encoder are inverse to each other (R70, R94) -/

theorem Instr.len_eq (i : Instr) : i.len = i.operand.bytes.length + 1 := (encode_length i).symm

theorem encode_eq_take_iff {i : Instr} {b0 b1 b2 : Byte} :
    encode i = [b0, b1, b2].take i.len ↔ i.opcode = b0 ∧ i.operand.bytes = [b1, b2].take (i.len - 1) := by
  simp [encode, i.len_eq]

/-- The decoder's instruction for three bytes is the one they encode, as many of them as its form has. -/
theorem instrOf_eq_some_iff_encode {b0 b1 b2 : Byte} {i : Instr} :
    instrOf b0 b1 b2 = some i ↔ encode i = [b0, b1, b2].take i.len := by
  rw [instrOf_eq_some_iff, encode_eq_take_iff]
  constructor
  · rintro ⟨r, hr, rfl⟩
    obtain ⟨hmem, hcode, hagrees⟩ := lookupOpcode_some hr
    exact ⟨(hagrees b1 b2).1.trans hcode, opcodeTable_operandBytes r hmem b1 b2⟩
  · rintro ⟨rfl, hbytes⟩
    exact instrOf_eq_some_iff.1 (instrOf_opcode (Operand.eq_ofBytes hbytes))

/-- A row's length is that of the instructions it makes. -/
theorem len_build_of_lookupOpcode {code : Byte} {r : OpcodeRow} (h : lookupOpcode code = some r) (b1 b2 : Byte) :
    (r.build b1 b2).len = r.descriptor.len := by
  obtain ⟨-, -, hagrees⟩ := lookupOpcode_some h
  obtain ⟨-, -, hform, hlen⟩ := hagrees b1 b2
  rw [Instr.len, Operand.len, hform, hlen]

/-- What a row makes is encoded by its code and the bytes it was made from, as many as the row says. -/
theorem encode_build_of_lookupOpcode {code : Byte} {r : OpcodeRow} (h : lookupOpcode code = some r) (b1 b2 : Byte) :
    encode (r.build b1 b2) = [code, b1, b2].take r.descriptor.len := by
  rw [← len_build_of_lookupOpcode h b1 b2]
  exact instrOf_eq_some_iff_encode.1 (instrOf_eq_some_iff.2 ⟨r, h, rfl⟩)

/-- Each arm of `decode` that answers took from the bytes what its row encodes. -/
theorem encode_append_of_decode {bs : List Byte} {i : Instr} {rest : List Byte} (h : decode bs = .ok (i, rest)) :
    encode i ++ rest = bs := by
  cases bs with
  | nil => cases h
  | cons b0 tail =>
    cases hr : lookupOpcode b0 with
    | none => simp [decode, hr] at h
    | some r =>
      have hencode := encode_build_of_lookupOpcode hr
      simp only [decode, hr] at h
      split at h
      case h_4 => cases h
      all_goals
        next hlen =>
        cases h
        simp [hencode, hlen]

/-- The operand bytes, none, one or two, decide which arm of `decode` reads the encoding. -/
theorem decode_encode_append (i : Instr) (rest : List Byte) : decode (encode i ++ rest) = .ok (i, rest) := by
  obtain ⟨r, hr, -, -, hlen⟩ := lookupOpcode_opcode i
  have hbuild {b1 b2 : Byte} (h : i.operand.bytes = [b1, b2].take (i.len - 1)) : r.build b1 b2 = i := by
    have hinstr := instrOf_eq_some_iff_encode.2 (encode_eq_take_iff.2 ⟨rfl, h⟩)
    simpa [instrOf, hr] using hinstr
  rw [i.len_eq] at hlen hbuild
  rw [encode]
  rcases hb : i.operand.bytes with _ | ⟨b1, _ | ⟨b2, _ | ⟨b3, bs⟩⟩⟩ <;> rw [hb] at hlen hbuild
  · simp [decode, hr, hlen, hbuild]
  · simp [decode, hr, hlen, hbuild]
  · simp [decode, hr, hlen, hbuild]
  · cases ho : i.operand <;> simp [ho, Operand.bytes] at hb

end Sys2Proof

/-- Settles O1, by `decode_encode_append`. -/
theorem decodeOfEncodeIsTheInstruction : Obligations.DecodeOfEncodeIsTheInstruction := decode_encode_append

/-- Settles O2, by `encode_append_of_decode`. -/
theorem encodeOfDecodeIsTheBytes : Obligations.EncodeOfDecodeIsTheBytes := fun _ _ _ => encode_append_of_decode

/-! ### What a step fetches and runs (R73, R75, R77) -/

/-- Settles O3: a byte of no row is one of R93's, and a byte of a row is the code of no other row. -/
theorem opcodeTableIsTotal : Obligations.OpcodeTableIsTotal := by
  refine ⟨fun b => ?_, opcodeTable_wellFormed.1, rfl, by decide +kernel⟩
  cases hr : lookupOpcode b with
  | none =>
    have hillegal : b ∈ illegalBytes := by
      simpa [hr] using (not_congr (lookupOpcode_isSome_iff b)).1
    exact .inl ⟨hillegal, by simp [descriptorOf, hr]⟩
  | some r =>
    have hlegal : b ∉ illegalBytes := (lookupOpcode_isSome_iff b).1 (by simp [hr])
    exact .inr ⟨hlegal, r.descriptor, by simp [descriptorOf, hr],
      filter_code_of_findRow opcodeTable_codesDistinct hr⟩

/-- Settles O4: eight of the words are encodings (O1); the ninth is the byte of no row. -/
theorem decodesWordsOfTheOpcodeMap : Obligations.DecodesWordsOfTheOpcodeMap :=
  ⟨decode_encode_append (.ldaImm 0x05#8) [], decode_encode_append (.staZp 0x10#8) [],
    decode_encode_append (.staIny 0x10#8) [], decode_encode_append .tax [], decode_encode_append .inx [],
    decode_encode_append (.jmpInd 0x30FF#16) [], decode_encode_append .rolAcc [],
    decode_encode_append (.bne 0xF9#8) [], rfl⟩

namespace Sys2Proof.Machine

/-- The fetched instruction is the one encoded at PC. -/
theorem State.fetch_eq_some_iff {s : State} {i : Instr} :
    s.fetch = some i ↔ encode i = [s.read s.pc, s.read (s.pc + 1#16), s.read (s.pc + 2#16)].take i.len :=
  instrOf_eq_some_iff_encode

/-- Past its first check a step is the handler of the fetched instruction. -/
theorem step_of_fetch {s : State} {i : Instr} (hinc : (s.inc16 s.pc 1).isSome) (hfetch : s.fetch = some i) :
    step s = exec i s := by
  rcases step_cases s with ⟨hnone, -⟩ | ⟨-, hnone, -⟩ | ⟨j, -, hj, hstep⟩
  · simp [hnone] at hinc
  · simp [hnone] at hfetch
  · obtain rfl : j = i := Option.some.inj (hj.symm.trans hfetch)
    exact hstep

theorem exec_ne_fault (i : Instr) (s : State) (f : Fault) : exec i s ≠ .fault f := by
  rcases exec_nextOrRefused i s with ⟨t, h⟩ | ⟨-, h⟩ <;> simp [h]

end Sys2Proof.Machine

/-- Settles O5: what three bytes decode to is what they encode (O2), and so what the step fetches. -/
theorem stepRunsTheDecodedInstruction : Obligations.StepRunsTheDecodedInstruction := by
  intro s i rest hinc hdecode
  refine step_of_fetch hinc (State.fetch_eq_some_iff.2 ?_)
  rw [← encode_append_of_decode hdecode, ← encode_length, List.take_left]

/-- Settles O6: the decoder's instruction for three bytes is the one they encode. -/
theorem fetchedInstructionIsTheBytesAtPc : Obligations.FetchedInstructionIsTheBytesAtPc :=
  fun _ _ => State.fetch_eq_some_iff.1

/-- Settles O8: an operand with this tag has no address, an instruction completes or is refused, and the only fault of
a step is the decoder's. -/
theorem addressingModeMisuseIsUnreachable : Obligations.AddressingModeMisuseIsUnreachable := by
  refine ⟨fun mn o s k htag => ?_, exec_ne_fault, fun s mode mn h => ?_⟩
  · rcases withAddress_cases mn o s k with ⟨-, hfault⟩ | ⟨ea, hea, -⟩
    · rw [hfault, htag]
    · exact absurd htag ((effectiveAddress_isSome_iff o s).1 (by simp [hea]))
  · rcases step_cases s with ⟨-, hstep⟩ | ⟨-, -, hstep⟩ | ⟨i, -, -, hstep⟩ <;> rw [hstep] at h
    · cases h
    · cases h
    · exact exec_ne_fault i s _ h

/-! ### The resolver (R78 to R90) -/

namespace Sys2Proof.Machine

theorem zext16_eq_ofNat (b : Byte) : zext16 b = BitVec.ofNat 16 b.toNat :=
  (BitVec.ofNat_toNat 16 b).symm

/-- A page-0 pointer as a number: the high byte's address wraps in the page (R88, R89). -/
theorem State.zeroPagePointer_toNat (s : State) (ptr : Byte) :
    (s.zeroPagePointer ptr).toNat =
      256 * (s.read (BitVec.ofNat 16 ((ptr.toNat + 1) % 256))).toNat + (s.read (BitVec.ofNat 16 ptr.toNat)).toNat := by
  simp [State.zeroPagePointer, hiLo_toNat, zext16_eq_ofNat]

/-- The mask of an indirect pointer leaves the start of its page (R87). -/
theorem and_page_eq_hiLo (ptr : Addr) : ptr &&& 0xFF00#16 = hiLo (hiByte ptr) 0#8 := by
  refine BitVec.eq_of_getLsbD_eq fun k hk => ?_
  have hmask : (0xFF00#16).getLsbD k = decide (8 ≤ k) := by
    revert k
    decide
  rw [BitVec.getLsbD_and, hmask]
  by_cases h : 8 ≤ k
  · have hlt : k - 8 < 8 := by omega
    simp [hiLo, hiByte, h, hk, hlt]
  · simp [hiLo, h]

/-- The word at an indirect pointer as a number: its high byte does not leave the pointer's page (R87). -/
theorem State.indirectTarget_toNat (s : State) (ptr : Addr) :
    (s.indirectTarget ptr).toNat =
      256 * (s.read (BitVec.ofNat 16 (if ptr.toNat % 256 = 255 then ptr.toNat - 255 else ptr.toNat + 1))).toNat +
        (s.read ptr).toNat := by
  have hlast : loByte ptr = 0xFF#8 ↔ ptr.toNat % 256 = 255 := by
    rw [BitVec.toNat_eq, loByte_toNat]
    rfl
  rw [State.indirectTarget, hiLo_toNat, and_page_eq_hiLo]
  simp only [hlast]
  split
  · next h =>
    have hpage : hiLo (hiByte ptr) 0#8 = BitVec.ofNat 16 (ptr.toNat - 255) := by
      have := ptr.isLt
      apply BitVec.eq_of_toNat_eq
      rw [hiLo_toNat, hiByte_toNat, BitVec.toNat_ofNat, BitVec.toNat_ofNat]
      omega
    rw [hpage]
  · rw [BitVec.ofNat_add, BitVec.ofNat_toNat, BitVec.setWidth_eq]

end Sys2Proof.Machine

/-- Settles O19: a byte taken as an address is in page 0, and LDX and STX are the constructors of the form ZPY. -/
theorem zeroPageAddressesWrapInPageZero : Obligations.ZeroPageAddressesWrapInPageZero := by
  intro s b
  refine ⟨rfl, rfl, ?_, ?_, ?_, fun i hi => ?_⟩
  · simp [effectiveAddress, zext16_toNat]
  · simp [effectiveAddress, zext16_toNat]
  · simp [effectiveAddress, zext16_toNat]
  · cases i <;> cases hi
    · exact .inl rfl
    · exact .inr rfl

/-- Settles O20: the sums are of 16-bit words. -/
theorem absoluteIndexingWrapsIn16Bits : Obligations.AbsoluteIndexingWrapsIn16Bits := by
  intro s addr
  refine ⟨rfl, ?_, ?_⟩ <;> simp [effectiveAddress, zext16_toNat]

/-- Settles O21, by `State.indirectTarget_toNat`; JMP has the one constructor of the form IND. -/
theorem indirectPointerHasThePageBug : Obligations.IndirectPointerHasThePageBug := by
  intro s ptr
  refine ⟨congrArg some (s.indirectTarget_toNat ptr), fun i hi => ?_⟩
  cases i <;> cases hi
  rfl

/-- Settles O22: the page-0 pointer at `b + X`, itself a byte. -/
theorem indexedIndirectPointerStaysInPageZero : Obligations.IndexedIndirectPointerStaysInPageZero := by
  intro s b
  simp [effectiveAddress, State.zeroPagePointer_toNat]

/-- Settles O23: the page-0 pointer at `b`, then a sum of 16-bit words. -/
theorem indirectIndexedAddsYAfterThePointer : Obligations.IndirectIndexedAddsYAfterThePointer := by
  intro s b
  simp [effectiveAddress, State.zeroPagePointer_toNat, zext16_toNat]

/-- Settles O60: IMM alone does not read memory, and its byte is the one fetched from the address after the opcode
(O6). -/
theorem operandByteIsTheByteAtTheEffectiveAddress : Obligations.OperandByteIsTheByteAtTheEffectiveAddress := by
  have hread (o : Operand) (s : State) (ho : ∀ v, o ≠ .imm v) :
      operandByte o s = (effectiveAddress o s).map s.read := by
    cases o
    case imm v => exact absurd rfl (ho v)
    all_goals rfl
  refine ⟨hread, fun s i hfetch => ?_⟩
  by_cases himm : ∃ v, i.operand = .imm v
  · obtain ⟨v, hv⟩ := himm
    have hbytes := (encode_eq_take_iff.1 (State.fetch_eq_some_iff.1 hfetch)).2
    obtain rfl : v = s.read (s.pc + 1#16) := by
      simpa [Instr.len, hv, Operand.bytes, Operand.len, Operand.form, OperandForm.len] using hbytes
    rw [hv]
    rfl
  · exact hread _ s (not_exists.1 himm)

/-! ### The branches (R150 to R158) -/

namespace Sys2Proof.Machine

/-- The displacement of a branch as R150 counts it. -/
theorem sext16_eq_ite (b : Byte) : sext16 b = if b.toNat < 128 then (b.toNat : Int) else b.toNat - 256 := by
  rw [sext16, BitVec.toInt_eq_toNat_cond]
  split <;> split <;> omega

end Sys2Proof.Machine

/-- Settles O35: the table's eight rows are one meaning, and `branch_eq_next_iff` says where it completes. -/
theorem branchesRedirectPcOnTheirFlag : Obligations.BranchesRedirectPcOnTheirFlag := by
  refine ⟨?_, ?_, ?_, ?_, ?_, ?_, ?_, ?_, fun s rel e next he hnext => ?_⟩
  iterate 8 · exact encodedAs_of_rows (by decide +kernel) (by decide +kernel)
  rw [← sext16_eq_ite, exec_of_mem_branchTable he]
  simp only [branch_eq_next_iff]
  refine ⟨fun hflag => ⟨next, hnext, .inl ⟨hflag, rfl⟩⟩, fun hflag => ⟨fun target htarget => ?_, fun hnone => ?_⟩⟩
  · exact ⟨next, hnext, .inr ⟨hflag, target, htarget, rfl⟩⟩
  · simp [branch, hnext, hflag, hnone, refuseAddressWrap]

end

section
/-! Proofs of the statements about the loads and the stores. -/

open Sys2Proof Sys2Proof.Machine

/-! ### The loads and the stores (R110 to R115) -/

namespace Sys2Proof.Machine

theorem exec_of_mnemonic {i : Instr} {mn : Mnemonic} (h : i.mnemonic = mn) (s : State) :
    exec i s = meaning mn i.operand s :=
  h ▸ exec_eq_meaning i s

/-- A write stores its byte at its address and changes no other, wherever PC then goes. -/
theorem storedAt_write_endStep (s : State) (ea : Addr) (v : Byte) (pc : Addr) (e : StepEnd) :
    StoredAt s ((s.write ea v).endStep pc e) ea v :=
  ⟨s.read_write_same ea v, fun _ hb => s.read_write_ne hb v⟩

variable {i : Instr} {s : State} {pc' : Addr}

/-- A load completes where its operand has a byte and the advance an address. -/
theorem exec_of_load {mn : Mnemonic} {r : Reg} {v : Byte} (hmn : i.mnemonic = mn)
    (hload : meaning mn i.operand s = load mn r i.operand s) (hv : operandByte i.operand s = some v)
    (hpc : s.inc16 s.pc i.len = some pc') : exec i s = .next ((s.setRegZN r v).endStep pc' .next) :=
  (exec_of_mnemonic hmn s).trans (hload.trans (load_eq_next_iff.2 ⟨v, hv, pc', hpc, rfl⟩))

/-- A store completes where its operand has an address and the advance one: the register's byte is at that address,
and memory, PC and `lastStep` are all that changed. -/
theorem exec_of_store {mn : Mnemonic} {r : Reg} {ea : Addr} (hmn : i.mnemonic = mn)
    (hstore : meaning mn i.operand s = store mn r i.operand s) (hea : effectiveAddress i.operand s = some ea)
    (hpc : s.inc16 s.pc i.len = some pc') :
    ∃ t, exec i s = .next t ∧ StoredAt s t ea (s.reg r) ∧ t = { s with mem := t.mem, pc := pc', lastStep := .next } :=
  ⟨_, (exec_of_mnemonic hmn s).trans (hstore.trans (store_eq_next_iff.2 ⟨ea, hea, pc', hpc, rfl⟩)),
    storedAt_write_endStep s ea (s.reg r) pc' .next, rfl⟩

end Sys2Proof.Machine

/-- Settles O24: the three are one meaning, `load`, and P is written by `updateZN` (O58). -/
theorem loadsSetTheirRegisterAndZN : Obligations.LoadsSetTheirRegisterAndZN := by
  refine ⟨?_, ?_, ?_, fun i s v pc' hv hpc => ?_⟩
  iterate 3 · exact encodedAs_of_rows (by decide +kernel) (by decide +kernel)
  have hzn : ZNRule v s.p (updateZN v s.p) := updateZNWritesZAndNOnly v s.p
  refine ⟨fun hlda => ⟨_, hzn, ?_⟩, fun hldx => ⟨_, hzn, ?_⟩, fun hldy => ⟨_, hzn, ?_⟩⟩
  · exact exec_of_load hlda rfl hv hpc
  · exact exec_of_load hldx rfl hv hpc
  · exact exec_of_load hldy rfl hv hpc

/-- Settles O25: the three are one meaning, `store`, which writes the byte of its register. -/
theorem storesWriteTheEffectiveAddressOnly : Obligations.StoresWriteTheEffectiveAddressOnly := by
  refine ⟨?_, ?_, ?_, fun i s ea pc' hea hpc => ⟨fun hsta => ?_, fun hstx => ?_, fun hsty => ?_⟩⟩
  iterate 3 · exact encodedAs_of_rows (by decide +kernel) (by decide +kernel)
  · exact exec_of_store hsta rfl hea hpc
  · exact exec_of_store hstx rfl hea hpc
  · exact exec_of_store hsty rfl hea hpc

end

section
/-! Proofs of the statements about ADC and SBC. -/

open Sys2Proof Sys2Proof.Machine

/-! ### The sum of ADC and SBC, its carry and its overflow (R120, R121) -/

namespace Sys2Proof.Machine

theorem addResult_toNat (a n : Byte) (c : Bool) :
    (addResult a n c).toNat = (a.toNat + n.toNat + c.toNat) % 256 :=
  BitVec.toNat_ofNat _ 8

/-- The mask 0x80 tests bit 7. -/
theorem and_signBit_bne_zero (v : Byte) : (v &&& 0x80#8 != 0#8) = v.getLsbD 7 := by
  have hmask : v &&& 0x80#8 = if v.getLsbD 7 then 0x80#8 else 0#8 := BitVec.and_twoPow v 7
  rw [hmask]
  cases v.getLsbD 7 <;> rfl

/-- The overflow test of R120 asks whether the sign of the result differs from that of both summands. -/
theorem addOverflow_eq_signs (a n : Byte) (c : Bool) :
    addOverflow a n c =
      ((a.getLsbD 7 ^^ (addResult a n c).getLsbD 7) && (n.getLsbD 7 ^^ (addResult a n c).getLsbD 7)) := by
  rw [addOverflow, and_signBit_bne_zero, BitVec.getLsbD_and, BitVec.getLsbD_xor, BitVec.getLsbD_xor]

/-- The overflow test is right: the sum of the signed bytes and the carry is no signed byte. -/
theorem addOverflow_iff (a n : Byte) (c : Bool) :
    addOverflow a n c = true ↔
      ¬ (-128 ≤ a.toInt + n.toInt + c.toNat ∧ a.toInt + n.toInt + c.toNat ≤ 127) := by
  have hc : c.toNat ≤ 1 := c.toNat_le
  have ha := a.isLt
  have hn := n.isLt
  simp only [addOverflow_eq_signs, getLsbD_seven_eq_decide, addResult_toNat, BitVec.toInt_eq_toNat_cond,
    Bool.and_eq_true, bne_iff_ne, ne_eq, decide_eq_decide]
  omega

theorem flag_c_addFlags (a n p : Byte) : flag .c (addFlags a n p) = addCarry a n (flag .c p) := by
  rw [addFlags, flag_updateZN_of_notMem (by decide), flag_putFlag_ne (by decide), flag_putFlag_same]

theorem flag_v_addFlags (a n p : Byte) : flag .v (addFlags a n p) = addOverflow a n (flag .c p) := by
  rw [addFlags, flag_updateZN_of_notMem (by decide), flag_putFlag_same]

theorem flag_z_addFlags (a n p : Byte) :
    flag .z (addFlags a n p) = decide ((addResult a n (flag .c p)).toNat = 0) :=
  (updateZNWritesZAndNOnly _ _).1

theorem flag_n_addFlags (a n p : Byte) :
    flag .n (addFlags a n p) = decide (128 ≤ (addResult a n (flag .c p)).toNat) :=
  (updateZNWritesZAndNOnly _ _).2.1

/-- The bits of P that ADC and SBC keep: I, D and the two that are no flag. -/
theorem getLsbD_addFlags_of_kept (a n p : Byte) {k : Nat} (hk : k = 2 ∨ k = 3 ∨ k = 4 ∨ k = 5) :
    (addFlags a n p).getLsbD k = p.getLsbD k := by
  rcases hk with rfl | rfl | rfl | rfl <;> simp [addFlags, updateZN, Flag.bit]

theorem onesComplement_eq_not (m : Byte) : onesComplement m = ~~~m :=
  BitVec.xor_allOnes

theorem onesComplement_toNat (m : Byte) : (onesComplement m).toNat = 255 - m.toNat := by
  rw [onesComplement_eq_not, BitVec.toNat_not]

theorem onesComplement_toInt (m : Byte) : (onesComplement m).toInt = -1 - m.toInt := by
  have hlt := m.isLt
  simp only [BitVec.toInt_eq_toNat_cond, onesComplement_toNat]
  omega

/-- An addition to A completes where its operand has a byte and the advance an address. -/
theorem exec_of_addToA {i : Instr} {s : State} {pc' : Addr} {mn : Mnemonic} {f : Byte → Byte} {m : Byte}
    (hmn : i.mnemonic = mn) (hadd : meaning mn i.operand s = addToA mn f i.operand s)
    (hm : operandByte i.operand s = some m) (hpc : s.inc16 s.pc i.len = some pc') :
    exec i s = .next { s with
      a := addResult s.a (f m) (flag .c s.p), p := addFlags s.a (f m) s.p, pc := pc', lastStep := .next } :=
  (exec_of_mnemonic hmn s).trans (hadd.trans (addToA_eq_next_iff.2 ⟨m, hm, pc', hpc, rfl⟩))

end Sys2Proof.Machine

/-- Settles O26: the operand is added as it is; C compares the sum that `addResult` takes modulo 256, and V is
`addOverflow_iff`. -/
theorem adcAddsWithCarryAndSignedOverflow : Obligations.AdcAddsWithCarryAndSignedOverflow := by
  refine ⟨encodedAs_of_rows (by decide +kernel) (by decide +kernel), fun i s m pc' hmn hm hpc =>
    ⟨_, _, exec_of_addToA (f := id) hmn rfl hm hpc, addResult_toNat _ _ _, flag_c_addFlags _ _ _, ?_,
      flag_z_addFlags _ _ _, flag_n_addFlags _ _ _, fun _ => getLsbD_addFlags_of_kept _ _ _⟩⟩
  rw [flag_v_addFlags]
  exact addOverflow_iff _ _ _

/-- Settles O27: the operand's complement is added, `255 - m` as a number and `-1 - m` as a signed one, so the sum with
the carry is the difference with the borrow, 256 more as a number. -/
theorem sbcSubtractsWithBorrowAndSignedOverflow : Obligations.SbcSubtractsWithBorrowAndSignedOverflow := by
  refine ⟨encodedAs_of_rows (by decide +kernel) (by decide +kernel), fun i s m pc' hmn hm hpc =>
    ⟨_, _, exec_of_addToA (f := onesComplement) hmn rfl hm hpc, ?_, ?_, ?_,
      flag_z_addFlags _ _ _, flag_n_addFlags _ _ _, fun _ => getLsbD_addFlags_of_kept _ _ _⟩⟩
  · have hlt := m.isLt
    rw [addResult_toNat, onesComplement_toNat]
    omega
  · have hlt := m.isLt
    rw [flag_c_addFlags, addCarry, addSum, onesComplement_toNat, decide_eq_decide]
    omega
  · rw [flag_v_addFlags, addOverflow_iff, onesComplement_toInt]
    omega

end

section
/-! Proofs of the statements about AND, ORA, EOR and BIT. -/

open Sys2Proof Sys2Proof.Machine

/-! ### The combinations of memory into A, and BIT (R125 to R128) -/

namespace Sys2Proof.Machine

variable {i : Instr} {s : State} {m : Byte} {pc' : Addr}

/-- A combination into A completes where its operand has a byte and the advance an address. -/
theorem exec_of_combineA {mn : Mnemonic} {f : Byte → Byte → Byte} (hmn : i.mnemonic = mn)
    (hcombine : meaning mn i.operand s = combineA mn f i.operand s) (hm : operandByte i.operand s = some m)
    (hpc : s.inc16 s.pc i.len = some pc') :
    exec i s = .next { s with a := f s.a m, p := updateZN (f s.a m) s.p, pc := pc', lastStep := .next } :=
  (exec_of_mnemonic hmn s).trans (hcombine.trans (combineA_eq_next_iff.2 ⟨m, hm, pc', hpc, rfl⟩))

/-- BIT completes where its operand has a byte and the advance an address. -/
theorem exec_of_bit (hmn : i.mnemonic = .bit) (hm : operandByte i.operand s = some m)
    (hpc : s.inc16 s.pc i.len = some pc') :
    exec i s = .next { s with p := bitFlags s.a m s.p, pc := pc', lastStep := .next } :=
  (exec_of_mnemonic hmn s).trans (bitTest_eq_next_iff.2 ⟨m, hm, pc', hpc, rfl⟩)

theorem flag_z_bitFlags (a m p : Byte) : flag .z (bitFlags a m p) = decide (a &&& m = 0#8) := by
  rw [bitFlags, flag_putFlag_ne (by decide), flag_putFlag_ne (by decide), flag_putFlag_same, beq_eq_decide]

theorem flag_n_bitFlags (a m p : Byte) : flag .n (bitFlags a m p) = m.getLsbD 7 := by
  rw [bitFlags, flag_putFlag_ne (by decide), flag_putFlag_same]

theorem flag_v_bitFlags (a m p : Byte) : flag .v (bitFlags a m p) = m.getLsbD 6 := by
  rw [bitFlags, flag_putFlag_same]

/-- The bits of P that BIT keeps: all but Z, V and N. -/
theorem getLsbD_bitFlags_of_ne (a m p : Byte) {k : Nat} (hz : k ≠ 1) (hv : k ≠ 6) (hn : k ≠ 7) :
    (bitFlags a m p).getLsbD k = p.getLsbD k := by
  simp [bitFlags, getLsbD_putFlag, Flag.bit, hz, hv, hn]

end Sys2Proof.Machine

/-- Settles O28: the three are one meaning, `combineA`, each with its bitwise operation, and P is written by `updateZN`
(O58). -/
theorem logicCombinesMemoryIntoA : Obligations.LogicCombinesMemoryIntoA := by
  refine ⟨?_, ?_, ?_, fun i s m pc' hm hpc => ⟨fun hand => ?_, fun hora => ?_, fun heor => ?_⟩⟩
  iterate 3 · exact encodedAs_of_rows (by decide +kernel) (by decide +kernel)
  · exact ⟨_, _, exec_of_combineA (f := (· &&& ·)) hand rfl hm hpc, fun _ => BitVec.getLsbD_and,
      updateZNWritesZAndNOnly _ _⟩
  · exact ⟨_, _, exec_of_combineA (f := (· ||| ·)) hora rfl hm hpc, fun _ => BitVec.getLsbD_or,
      updateZNWritesZAndNOnly _ _⟩
  · exact ⟨_, _, exec_of_combineA (f := (· ^^^ ·)) heor rfl hm hpc, fun _ => BitVec.getLsbD_xor,
      updateZNWritesZAndNOnly _ _⟩

/-- Settles O29: BIT writes P alone, by `bitFlags`. -/
theorem bitTestsMemoryAgainstA : Obligations.BitTestsMemoryAgainstA :=
  ⟨encodedAs_of_rows (by decide +kernel) (by decide +kernel), fun _ _ _ _ hmn hm hpc =>
    ⟨_, exec_of_bit hmn hm hpc, flag_z_bitFlags _ _ _, flag_n_bitFlags _ _ _, flag_v_bitFlags _ _ _,
      fun _ => getLsbD_bitFlags_of_ne _ _ _⟩⟩

end

section
/-! Proofs of the statements about the shifts and the rotates. -/

open Sys2Proof Sys2Proof.Machine

/-! ### ASL, LSR, ROL and ROR (R129 to R133) -/

namespace Sys2Proof.Machine

/-- The mnemonic of each shift and rotate. -/
def ShiftOp.mnemonic : ShiftOp → Mnemonic
  | .asl => .asl
  | .lsr => .lsr
  | .rol => .rol
  | .ror => .ror

theorem ShiftOp.exists_mnemonic_eq {mn : Mnemonic} (h : mn ∈ [Mnemonic.asl, .lsr, .rol, .ror]) :
    ∃ op : ShiftOp, mn = op.mnemonic := by
  simp only [List.mem_cons, List.not_mem_nil, or_false] at h
  rcases h with rfl | rfl | rfl | rfl
  · exact ⟨.asl, rfl⟩
  · exact ⟨.lsr, rfl⟩
  · exact ⟨.rol, rfl⟩
  · exact ⟨.ror, rfl⟩

/-- A shift means one thing for the operand ACC and one for every other (R129). -/
theorem meaning_shift (op : ShiftOp) (o : Operand) (s : State) :
    meaning op.mnemonic o s = if o = .acc then shiftA op s else shiftMemory op.mnemonic op o s := by
  cases op <;> rfl

theorem toNat_shiftLeft_one (v : Byte) : (v <<< 1).toNat = 2 * v.toNat % 256 := by
  rw [BitVec.toNat_shiftLeft, Nat.shiftLeft_eq, Nat.mul_comm, Nat.pow_one]

theorem toNat_ushiftRight_one (v : Byte) : (v >>> 1).toNat = v.toNat / 2 := by
  rw [BitVec.toNat_ushiftRight, Nat.shiftRight_eq_div_pow, Nat.pow_one]

/-- ROL's carry comes into the bit that the shift left empty. -/
theorem shiftResult_rol_toNat (v : Byte) (c : Bool) :
    (shiftResult .rol v c).toNat = 2 * v.toNat % 256 + c.toNat := by
  have hc : c.toNat < 2 ^ 1 := c.toNat_lt
  have hor := Nat.two_pow_add_eq_or_of_lt hc (v.toNat % 128)
  have heven : 2 * v.toNat % 256 = 2 ^ 1 * (v.toNat % 128) := by omega
  have hcarry : (BitVec.ofNat 8 c.toNat).toNat = c.toNat := by cases c <;> rfl
  rw [shiftResult, BitVec.toNat_or, toNat_shiftLeft_one, hcarry, heven, hor]

/-- ROR's carry comes into the bit that the shift left empty. -/
theorem shiftResult_ror_toNat (v : Byte) (c : Bool) :
    (shiftResult .ror v c).toNat = v.toNat / 2 + 128 * c.toNat := by
  have hv : v.toNat / 2 < 2 ^ 7 := by have := v.isLt; omega
  have hor := Nat.two_pow_add_eq_or_of_lt hv c.toNat
  have hcarry : (BitVec.ofNat 8 c.toNat <<< 7).toNat = 2 ^ 7 * c.toNat := by cases c <;> rfl
  rw [shiftResult, BitVec.toNat_or, toNat_ushiftRight_one, hcarry, Nat.or_comm, ← hor, Nat.add_comm]

/-- Bit 0 of a byte says whether it is odd. -/
theorem getLsbD_zero_eq_decide (v : Byte) : v.getLsbD 0 = decide (v.toNat % 2 = 1) := by
  rw [BitVec.getLsbD, Nat.testBit_zero]

/-- The result and the carry of each shift are those of its rule. -/
theorem shiftRule_shiftResult (op : ShiftOp) (v : Byte) (c : Bool) :
    ShiftRule op.mnemonic v c (shiftResult op v c) (shiftCarry op v) := by
  cases op
  case asl => exact ⟨toNat_shiftLeft_one v, getLsbD_seven_eq_decide v⟩
  case lsr => exact ⟨toNat_ushiftRight_one v, getLsbD_zero_eq_decide v⟩
  case rol => exact ⟨shiftResult_rol_toNat v c, getLsbD_seven_eq_decide v⟩
  case ror => exact ⟨shiftResult_ror_toNat v c, getLsbD_zero_eq_decide v⟩

theorem flag_c_shiftFlags (op : ShiftOp) (v p : Byte) : flag .c (shiftFlags op v p) = shiftCarry op v := by
  rw [shiftFlags, flag_updateZN_of_notMem (by decide), flag_putFlag_same]

theorem flag_z_shiftFlags (op : ShiftOp) (v p : Byte) :
    flag .z (shiftFlags op v p) = decide ((shiftResult op v (flag .c p)).toNat = 0) :=
  (updateZNWritesZAndNOnly _ _).1

theorem flag_n_shiftFlags (op : ShiftOp) (v p : Byte) :
    flag .n (shiftFlags op v p) = decide (128 ≤ (shiftResult op v (flag .c p)).toNat) :=
  (updateZNWritesZAndNOnly _ _).2.1

/-- C in the P that a shift leaves is the carry of its rule. -/
theorem shiftRule_shiftFlags (op : ShiftOp) (v p : Byte) :
    ShiftRule op.mnemonic v (flag .c p) (shiftResult op v (flag .c p)) (flag .c (shiftFlags op v p)) := by
  rw [flag_c_shiftFlags]
  exact shiftRule_shiftResult op v _

/-- The bits of P that a shift keeps: all but C, Z and N. -/
theorem getLsbD_shiftFlags_of_ne (op : ShiftOp) (v p : Byte) {k : Nat} (hc : k ≠ 0) (hz : k ≠ 1) (hn : k ≠ 7) :
    (shiftFlags op v p).getLsbD k = p.getLsbD k := by
  simp [shiftFlags, updateZN, getLsbD_putFlag, Flag.bit, hc, hz, hn]

/-- ROR after ROL, each with the carry it finds, gives the byte back. -/
theorem shiftResult_ror_rol (v : Byte) (c : Bool) :
    shiftResult .ror (shiftResult .rol v c) (shiftCarry .rol v) = v := by
  obtain ⟨hrol, hout⟩ := shiftRule_shiftResult .rol v c
  apply BitVec.eq_of_toNat_eq
  have hlt := v.isLt
  have hc := c.toNat_lt
  rw [shiftResult_ror_toNat, hrol, hout]
  by_cases h : 128 ≤ v.toNat
  · rw [decide_eq_true h, Bool.toNat_true]
    omega
  · rw [decide_eq_false h, Bool.toNat_false]
    omega

/-- ROR after ROL shifts out the carry that ROL shifted in. -/
theorem shiftCarry_ror_rol (v : Byte) (c : Bool) : shiftCarry .ror (shiftResult .rol v c) = c := by
  obtain ⟨-, hout⟩ := shiftRule_shiftResult .ror (shiftResult .rol v c) c
  rw [hout, shiftResult_rol_toNat]
  cases c
  · exact decide_eq_false (by rw [Bool.toNat_false]; omega)
  · exact decide_eq_true (by rw [Bool.toNat_true]; omega)

variable {i : Instr} {s : State} {pc' : Addr}

/-- A shift of A completes where the advance has an address. -/
theorem exec_of_shiftA (op : ShiftOp) (hmn : i.mnemonic = op.mnemonic) (hacc : i.operand = .acc)
    (hpc : s.inc16 s.pc 1 = some pc') :
    exec i s = .next { s with
      a := shiftResult op s.a (flag .c s.p), p := shiftFlags op s.a s.p, pc := pc', lastStep := .next } := by
  rw [exec_of_mnemonic hmn, meaning_shift, if_pos hacc]
  exact shiftA_eq_next_iff.2 ⟨pc', hpc, rfl⟩

/-- A shift of memory completes where its operand has an address and the advance one. -/
theorem exec_of_shiftMemory (op : ShiftOp) {ea : Addr} (hmn : i.mnemonic = op.mnemonic)
    (hea : effectiveAddress i.operand s = some ea) (hpc : s.inc16 s.pc i.len = some pc') :
    exec i s = .next
      (((s.write ea (shiftResult op (s.read ea) (flag .c s.p))).setP (shiftFlags op (s.read ea) s.p)).endStep pc'
        .next) := by
  have hacc : i.operand ≠ .acc := fun h => by rw [h] at hea; cases hea
  rw [exec_of_mnemonic hmn, meaning_shift, if_neg hacc]
  exact shiftMemory_eq_next_iff.2 ⟨ea, hea, pc', hpc, rfl⟩

end Sys2Proof.Machine

/-- Settles O30: the four are one meaning over the operation `op`, on A for the operand ACC and in memory for every
other; `shiftRule_shiftFlags` is the rule of each, and `shiftFlags` writes Z and N from the result. -/
theorem shiftsMoveTheirTargetByOneBit : Obligations.ShiftsMoveTheirTargetByOneBit := by
  refine ⟨?_, ?_, ?_, ?_, fun i s pc' hi hpc => ?_, fun i s ea pc' hmn hea hpc => ?_⟩
  iterate 4 · exact encodedAs_of_rows (by decide +kernel) (by decide +kernel)
  · have hacc : i.operand = .acc := by
      revert i
      decide
    obtain ⟨op, hop⟩ := ShiftOp.exists_mnemonic_eq (Instr.mnemonic_mem_of_acc hacc)
    rw [hop]
    exact ⟨_, _, exec_of_shiftA op hop hacc hpc, shiftRule_shiftFlags op _ _, flag_z_shiftFlags _ _ _,
      flag_n_shiftFlags _ _ _, fun _ => getLsbD_shiftFlags_of_ne _ _ _⟩
  · obtain ⟨op, hop⟩ := ShiftOp.exists_mnemonic_eq hmn
    rw [hop]
    exact ⟨_, _, exec_of_shiftMemory op hop hea hpc, storedAt_write_endStep s ea _ pc' .next,
      shiftRule_shiftFlags op _ _, flag_z_shiftFlags _ _ _, flag_n_shiftFlags _ _ _,
      fun _ => getLsbD_shiftFlags_of_ne _ _ _, rfl⟩

/-- Settles O31: ROL leaves bit 7 of A in C, which ROR brings back, and C in bit 0 of A, which ROR shifts out. -/
theorem rorUndoesRol : Obligations.RorUndoesRol := by
  intro s pc1 pc2 hpc1 hpc2
  refine ⟨_, _, exec_of_shiftA .rol rfl rfl hpc1, exec_of_shiftA .ror rfl rfl hpc2, fun k hz hn => ?_, ?_⟩
  · by_cases hc : k = 0
    · subst hc
      exact (flag_c_shiftFlags _ _ _).trans (shiftCarry_ror_rol _ _)
    · exact (getLsbD_shiftFlags_of_ne _ _ _ hc hz hn).trans (getLsbD_shiftFlags_of_ne _ _ _ hc hz hn)
  · simp only [flag_c_shiftFlags, shiftResult_ror_rol]

end

section
/-! Proofs of the statement about CMP, CPX and CPY. -/

open Sys2Proof Sys2Proof.Machine

/-! ### Comparing a register with memory (R134 to R137) -/

namespace Sys2Proof.Machine

variable {i : Instr} {s : State} {m : Byte} {pc' : Addr}

/-- A comparison completes where its operand has a byte and the advance an address. -/
theorem exec_of_compare {mn : Mnemonic} (r : Reg) (hmn : i.mnemonic = mn)
    (hcompare : meaning mn i.operand s = Machine.compare mn r i.operand s) (hm : operandByte i.operand s = some m)
    (hpc : s.inc16 s.pc i.len = some pc') :
    exec i s = .next { s with p := compareFlags (s.reg r) m s.p, pc := pc', lastStep := .next } :=
  (exec_of_mnemonic hmn s).trans (hcompare.trans (compare_eq_next_iff.2 ⟨m, hm, pc', hpc, rfl⟩))

theorem flag_c_compareFlags (reg m p : Byte) : flag .c (compareFlags reg m p) = decide (m.toNat ≤ reg.toNat) := by
  rw [compareFlags, flag_putFlag_ne (by decide), flag_putFlag_ne (by decide), flag_putFlag_same]

theorem flag_z_compareFlags (reg m p : Byte) : flag .z (compareFlags reg m p) = decide (reg = m) := by
  rw [compareFlags, flag_putFlag_ne (by decide), flag_putFlag_same, beq_eq_decide]

/-- N is bit 7 of the difference, which as a number is the integer difference modulo 256. -/
theorem flag_n_compareFlags_iff (reg m p : Byte) :
    flag .n (compareFlags reg m p) = true ↔ 128 ≤ ((reg.toNat : Int) - m.toNat) % 256 := by
  have hm := m.isLt
  rw [compareFlags, flag_putFlag_same, getLsbD_seven_eq_decide, decide_eq_true_iff, BitVec.toNat_sub]
  omega

/-- The bits of P that a comparison keeps: all but C, Z and N. -/
theorem getLsbD_compareFlags_of_ne (reg m p : Byte) {k : Nat} (hc : k ≠ 0) (hz : k ≠ 1) (hn : k ≠ 7) :
    (compareFlags reg m p).getLsbD k = p.getLsbD k := by
  simp [compareFlags, getLsbD_putFlag, Flag.bit, hc, hz, hn]

theorem compareRule_compareFlags (reg m p : Byte) : CompareRule reg m p (compareFlags reg m p) :=
  ⟨flag_c_compareFlags _ _ _, flag_z_compareFlags _ _ _, flag_n_compareFlags_iff _ _ _,
    fun _ => getLsbD_compareFlags_of_ne _ _ _⟩

end Sys2Proof.Machine

/-- Settles O32: the three are one meaning, `compare`, each with its register, and it writes P alone, by
`compareFlags`. -/
theorem comparesSetCZNOnly : Obligations.ComparesSetCZNOnly := by
  refine ⟨?_, ?_, ?_, fun i s m pc' hm hpc => ⟨fun hcmp => ?_, fun hcpx => ?_, fun hcpy => ?_⟩⟩
  iterate 3 · exact encodedAs_of_rows (by decide +kernel) (by decide +kernel)
  · exact ⟨_, exec_of_compare .a hcmp rfl hm hpc, compareRule_compareFlags _ _ _⟩
  · exact ⟨_, exec_of_compare .x hcpx rfl hm hpc, compareRule_compareFlags _ _ _⟩
  · exact ⟨_, exec_of_compare .y hcpy rfl hm hpc, compareRule_compareFlags _ _ _⟩

end

section
/-! Proofs of the statements about the increments and the decrements. -/

open Sys2Proof Sys2Proof.Machine

/-! ### INC, DEC, INX, INY, DEX and DEY (R140 to R145) -/

namespace Sys2Proof.Machine

theorem toNat_add_one (v : Byte) : (v + 1#8).toNat = (v.toNat + 1) % 256 :=
  BitVec.toNat_add v 1#8

theorem toNat_sub_one (v : Byte) : (v - 1#8).toNat = (v.toNat + 255) % 256 := by
  rw [Nat.add_comm]
  exact BitVec.toNat_sub v 1#8

variable {i : Instr} {s : State} {ea pc' : Addr}

/-- A step of a memory byte by `f` completes where its operand has an address and the advance one: the stepped byte is
at that address, Z and N are updated from it (O58), and memory, P, PC and `lastStep` are all that changed. -/
theorem exec_of_stepMemory {mn : Mnemonic} {f : Byte → Byte} (hmn : i.mnemonic = mn)
    (hstep : meaning mn i.operand s = stepMemory mn f i.operand s) (hea : effectiveAddress i.operand s = some ea)
    (hpc : s.inc16 s.pc i.len = some pc') :
    ∃ t, exec i s = .next t ∧ StoredAt s t ea (f (s.read ea)) ∧ ZNRule (f (s.read ea)) s.p t.p ∧
      t = { s with p := t.p, mem := t.mem, pc := pc', lastStep := .next } :=
  ⟨_, (exec_of_mnemonic hmn s).trans (hstep.trans (stepMemory_eq_next_iff.2 ⟨ea, hea, pc', hpc, rfl⟩)),
    storedAt_write_endStep s ea _ pc' .next, updateZNWritesZAndNOnly _ _, rfl⟩

/-- A step of a register by `f` completes where the advance has an address. -/
theorem exec_of_stepRegister {r : Reg} {f : Byte → Byte} (hstep : exec i s = stepRegister r f s)
    (hpc : s.inc16 s.pc 1 = some pc') : exec i s = .next ((s.setRegZN r (f (s.reg r))).endStep pc' .next) :=
  hstep.trans (stepRegister_eq_next_iff.2 ⟨pc', hpc, rfl⟩)

end Sys2Proof.Machine

/-- Settles O33: the two are one meaning, `stepMemory`, by adding and by subtracting 1. -/
theorem incAndDecChangeOneMemoryByte : Obligations.IncAndDecChangeOneMemoryByte := by
  refine ⟨?_, ?_, fun i s ea pc' hea hpc => ⟨fun hinc => ?_, fun hdec => ?_⟩⟩
  iterate 2 · exact encodedAs_of_rows (by decide +kernel) (by decide +kernel)
  · obtain ⟨t, hexec, hstored, hzn, hframe⟩ := exec_of_stepMemory (f := (· + 1#8)) hinc rfl hea hpc
    exact ⟨t, _, hexec, toNat_add_one _, hstored, hzn, hframe⟩
  · obtain ⟨t, hexec, hstored, hzn, hframe⟩ := exec_of_stepMemory (f := (· - 1#8)) hdec rfl hea hpc
    exact ⟨t, _, hexec, toNat_sub_one _, hstored, hzn, hframe⟩

/-- Settles O34: the four are one meaning, `stepRegister`, on X or on Y, by adding or by subtracting 1, and P is
written by `updateZN` (O58). -/
theorem registerIncrementsAndDecrementsWrap : Obligations.RegisterIncrementsAndDecrementsWrap := by
  refine ⟨?_, ?_, ?_, ?_, fun s pc' hpc => ?_⟩
  iterate 4 · exact encodedAs_of_rows (by decide +kernel) (by decide +kernel)
  have hzn (v : Byte) : ZNRule v s.p (updateZN v s.p) := updateZNWritesZAndNOnly v s.p
  refine ⟨⟨_, _, toNat_add_one s.x, hzn _, ?_⟩, ⟨_, _, toNat_add_one s.y, hzn _, ?_⟩,
    ⟨_, _, toNat_sub_one s.x, hzn _, ?_⟩, ⟨_, _, toNat_sub_one s.y, hzn _, ?_⟩⟩
  · exact exec_of_stepRegister (r := .x) (f := (· + 1#8)) rfl hpc
  · exact exec_of_stepRegister (r := .y) (f := (· + 1#8)) rfl hpc
  · exact exec_of_stepRegister (r := .x) (f := (· - 1#8)) rfl hpc
  · exact exec_of_stepRegister (r := .y) (f := (· - 1#8)) rfl hpc

end

section
/-! Proofs of the statements about the jumps and the subroutines: JMP, RTS, RTI, and RTS after JSR. -/

open Sys2Proof Sys2Proof.Machine

/-! ### JMP, RTS and RTI (R160, R162, R163) -/

namespace Sys2Proof.Machine

theorem len_of_jmp {i : Instr} (h : i.mnemonic = .jmp) : i.operand.len = 3 := by
  cases i <;> cases h <;> rfl

/-- Pop16 as one read of two bytes: two single increments of SP are one of 2. -/
theorem State.pop16_eq (s : State) :
    s.pop16 = (hiLo (s.read (stackAddr (s.sp + 2#8))) (s.read (stackAddr (s.sp + 1#8))),
      { s with sp := s.sp + 2#8 }) := by
  rw [← show s.sp + 1#8 + 1#8 = s.sp + 2#8 from BitVec.add_assoc s.sp 1#8 1#8]
  rfl

/-- LoadP keeps every bit but 4 and 5, which it sets (R21). -/
theorem getLsbD_loadP (b : Byte) (k : Nat) : (loadP b).getLsbD k = (b.getLsbD k || decide (k = 4 ∨ k = 5)) := by
  have hmask : Config.statusAlwaysOne.getLsbD k = decide (k = 4 ∨ k = 5) := by
    by_cases hk : k < 8
    · revert k
      decide
    · rw [BitVec.getLsbD_of_ge _ _ (by omega)]
      exact (decide_eq_false (by omega)).symm
  rw [loadP, BitVec.getLsbD_or, hmask]

/-- No flag lies in the bits that LoadP sets. -/
theorem flag_loadP (f : Flag) (b : Byte) : flag f (loadP b) = flag f b := by
  have hbit : ¬(f.bit = 4 ∨ f.bit = 5) := by
    cases f <;> decide
  simp [flag, getLsbD_loadP, hbit]

end Sys2Proof.Machine

/-- Settles O36: with an effective address given, a jump fails only for want of its second operand byte's address. -/
theorem jmpSetsPcToTheEffectiveAddress : Obligations.JmpSetsPcToTheEffectiveAddress := by
  refine ⟨encodedAs_of_rows (by decide +kernel) (by decide +kernel), fun i s ea hjmp hea =>
    ⟨fun hlast => ?_, fun hnone => ?_⟩⟩
  · refine (exec_of_mnemonic hjmp s).trans (jumpTo_eq_next_iff.2 ⟨ea, hea, ?_, rfl⟩)
    rw [len_of_jmp hjmp]
    exact hlast
  · have hcompletes := exec_jmp_jsr_completes_iff (.inl hjmp) s
    rw [exec_eq_refused_iff, ← not_exists, hcompletes, Option.not_isSome_iff_eq_none]
    exact hnone

/-- Settles O38: RTS is a Pop16 (`State.pop16_eq`), an `Inc16` by 1, and a jump. -/
theorem rtsReturnsToThePoppedAddressPlusOne : Obligations.RtsReturnsToThePoppedAddressPlusOne := by
  refine ⟨encodedAs_of_rows (by decide +kernel) (by decide +kernel), fun s =>
    ⟨fun target htarget => ?_, fun hnone => ?_⟩⟩
  · refine returnFromSubroutine_eq_next_iff.2 ⟨target, ?_, ?_⟩ <;> rw [State.pop16_eq]
    · exact htarget
    · rfl
  · refine (exec_eq_refused_iff .rts s).2 fun t h => ?_
    obtain ⟨target, htarget, -⟩ := returnFromSubroutine_eq_next_iff.1 h
    rw [State.pop16_eq, hnone] at htarget
    cases htarget

/-- Settles O39: RTI is a pop into P by LoadP, a Pop16 (`State.pop16_eq`), and a jump. -/
theorem rtiPopsStatusThenPc : Obligations.RtiPopsStatusThenPc := by
  refine ⟨encodedAs_of_rows (by decide +kernel) (by decide +kernel), fun s =>
    ⟨loadP s.pop.1, State.returnFromInterrupt_eq_next_iff.2 ?_, fun f => flag_loadP f _, ?_, ?_⟩⟩
  · have hsp2 : s.sp + 1#8 + 1#8 = s.sp + 2#8 := BitVec.add_assoc s.sp 1#8 1#8
    have hsp3 : s.sp + 1#8 + 2#8 = s.sp + 3#8 := BitVec.add_assoc s.sp 1#8 2#8
    rw [State.pop16_eq, State.pop_sp, hsp2, hsp3]
    rfl
  · simp [getLsbD_loadP]
  · simp [getLsbD_loadP]

/-! ### RTS after JSR (R161, R162) -/

namespace Sys2Proof.Machine

/-- Where `Inc16` has an answer forward, it has the same answer in two parts: a shorter way is in range or wraps, and
where the second part were refused, the whole way would be. -/
theorem State.inc16_split {s : State} {v t : Addr} {j k : Int} (hj : 0 ≤ j) (hk : 0 ≤ k)
    (h : s.inc16 v (j + k) = some t) : ∃ u, s.inc16 v j = some u ∧ s.inc16 u k = some t := by
  have hsum : t = BitVec.ofInt 16 (v.toNat + (j + k)) := eq_ofInt_of_inc16 h
  obtain ⟨u, hu⟩ : ∃ u, s.inc16 v j = some u :=
    Option.isSome_iff_exists.1 (inc16_isSome_of_le hj (by omega) (Option.isSome_of_eq_some h))
  have hfirst : (u.toNat : Int) = (v.toNat + j) % 65536 := by
    rw [eq_ofInt_of_inc16 hu, toNat_ofInt_addr]
  refine ⟨u, hu, ?_⟩
  cases ht : s.inc16 u k with
  | none =>
    obtain ⟨hrefuse, hout⟩ := (inc16_eq_none_iff _ _ _).1 ht
    have hnone : s.inc16 v (j + k) = none := (inc16_eq_none_iff _ _ _).2 ⟨hrefuse, by omega⟩
    simp [hnone] at h
  | some t' =>
    have hsecond : t' = BitVec.ofInt 16 (u.toNat + k) := eq_ofInt_of_inc16 ht
    have htoNat : (t'.toNat : Int) = t.toNat := by
      rw [hsecond, hsum, toNat_ofInt_addr, toNat_ofInt_addr]
      omega
    rw [BitVec.eq_of_toNat_eq (Int.ofNat_inj.1 htoNat)]

/-- A Pop16 neither reads nor writes PC and `lastStep`. -/
theorem State.pop16_endStep (s : State) (pc : Addr) (e : StepEnd) :
    (s.endStep pc e).pop16 = (s.pop16.1, s.pop16.2.endStep pc e) := rfl

end Sys2Proof.Machine

/-- Settles O40: the RTS pops the word that the JSR pushed (O45), `pc0 + 2`, and one further is `pc0 + 3`. -/
theorem rtsAfterJsrReturnsBehindTheJsr : Obligations.RtsAfterJsrReturnsBehindTheJsr := by
  intro s target pc3 hpc3
  obtain ⟨last, hlast, hbehind⟩ := State.inc16_split (j := 2) (k := 1) (by decide) (by decide) hpc3
  have hpop := (pop16AfterPush16GivesTheWordBack s last).1
  refine ⟨_, jumpToSubroutine_eq_next_iff.2 ⟨last, hlast, rfl⟩, returnFromSubroutine_eq_next_iff.2 ⟨pc3, ?_, ?_⟩⟩ <;>
    rw [State.pop16_endStep, hpop]
  · exact hbehind
  · rfl

end

section
/-! Proofs of the statements about PLP, the flag instructions, the transfers, NOP and BRK, the decode fault, and the
host operation `load`. -/

open Sys2Proof Sys2Proof.Machine

/-! ### PLP, NOP and BRK (R168, R183, R184) -/

/-- Settles O43: PLP is a pop into P by LoadP, which keeps the flags and sets bits 4 and 5, then the advance. -/
theorem plpLoadsTheSixFlags : Obligations.PlpLoadsTheSixFlags := by
  refine ⟨encodedAs_of_rows (by decide +kernel) (by decide +kernel), fun s pc' hpc =>
    ⟨loadP s.pop.1, pullP_eq_next_iff.2 ⟨pc', hpc, rfl⟩, fun f => flag_loadP f _, ?_, ?_⟩⟩
  · simp [getLsbD_loadP]
  · simp [getLsbD_loadP]

/-- Settles O49: NOP is the advance alone. -/
theorem nopOnlyAdvancesPc : Obligations.NopOnlyAdvancesPc :=
  ⟨encodedAs_of_rows (by decide +kernel) (by decide +kernel),
    fun _ pc' hpc => State.advance_eq_next_iff.2 ⟨pc', hpc, rfl⟩⟩

/-- Settles O50: BRK is the advance that ends as `halt`, and `exec_effect` gives that end to no other mnemonic. -/
theorem brkHaltsAndChangesOnlyPc : Obligations.BrkHaltsAndChangesOnlyPc := by
  refine ⟨encodedAs_of_rows (by decide +kernel) (by decide +kernel),
    fun s pc' hpc => State.halt_eq_next_iff.2 ⟨pc', hpc, rfl⟩, fun i s t h => ?_⟩
  obtain ⟨u, pc, e, -, rfl, hhalt⟩ := exec_effect h
  rw [State.endStep_lastStep, hhalt, mnemonic_eq_brk_iff]

/-! ### The flag instructions and the transfers (R170 to R182) -/

namespace Sys2Proof.Machine

/-- A change of flag `f` to `b` completes where the advance has an address: bit `f.bit` of P is `b`, the others are
as before. -/
theorem exec_of_changeFlag {i : Instr} {s : State} {pc' : Addr} (f : Flag) (b : Bool)
    (hexec : exec i s = changeFlag (putFlag f b) s) (hpc : s.inc16 s.pc 1 = some pc') :
    ∃ p' : Byte, exec i s = .next { s with p := p', pc := pc', lastStep := .next } ∧
      ∀ k, p'.getLsbD k = if k = f.bit then b else s.p.getLsbD k :=
  ⟨_, hexec.trans (changeFlag_eq_next_iff.2 ⟨pc', hpc, rfl⟩), getLsbD_putFlag f b s.p⟩

end Sys2Proof.Machine

/-- Settles O47: each of the seven is `changeFlag` by the `putFlag` of its row. -/
theorem flagInstructionsChangeOneBit : Obligations.FlagInstructionsChangeOneBit := by
  refine ⟨?_, ?_, ?_, ?_, ?_, ?_, ?_, fun s pc' e hpc he => ?_⟩
  iterate 7 · exact encodedAs_of_rows (by decide +kernel) (by decide +kernel)
  simp only [List.mem_cons, List.not_mem_nil, or_false] at he
  rcases he with rfl | rfl | rfl | rfl | rfl | rfl | rfl
  · exact exec_of_changeFlag .c true rfl hpc
  · exact exec_of_changeFlag .c false rfl hpc
  · exact exec_of_changeFlag .d true rfl hpc
  · exact exec_of_changeFlag .d false rfl hpc
  · exact exec_of_changeFlag .i true rfl hpc
  · exact exec_of_changeFlag .i false rfl hpc
  · exact exec_of_changeFlag .v false rfl hpc

/-- Settles O48: five are one meaning, `transfer`, whose P is written by `updateZN` (O58); TXS writes SP and
advances. -/
theorem transfersCopyOneRegister : Obligations.TransfersCopyOneRegister := by
  refine ⟨?_, ?_, ?_, ?_, ?_, ?_, fun s pc' hpc => ?_⟩
  iterate 6 · exact encodedAs_of_rows (by decide +kernel) (by decide +kernel)
  have hzn (v : Byte) : ZNRule v s.p (updateZN v s.p) := updateZNWritesZAndNOnly v s.p
  have htransfer (source target : Reg) :
      transfer source target s = .next ((s.setRegZN target (s.reg source)).endStep pc' .next) :=
    transfer_eq_next_iff.2 ⟨pc', hpc, rfl⟩
  exact ⟨⟨_, hzn s.a, htransfer .a .x⟩, ⟨_, hzn s.a, htransfer .a .y⟩, ⟨_, hzn s.x, htransfer .x .a⟩,
    ⟨_, hzn s.y, htransfer .y .a⟩, ⟨_, hzn s.sp, htransfer .sp .x⟩,
    State.advance_eq_next_iff.2 ⟨pc', hpc, rfl⟩⟩

/-! ### The decode fault (R201) -/

/-- Settles O7: the fetch finds no instruction exactly at an illegal byte, and an instruction raises no fault. -/
theorem decodeFaultExactlyOnIllegalBytes : Obligations.DecodeFaultExactlyOnIllegalBytes := by
  refine ⟨fun s hinc hillegal => ?_, fun s opcode address h => ?_⟩
  · rcases step_cases s with ⟨hnone, -⟩ | ⟨-, -, hstep⟩ | ⟨i, -, hfetch, -⟩
    · simp [hnone] at hinc
    · exact hstep
    · exact absurd hillegal (s.fetch_isSome_iff.1 (Option.isSome_of_eq_some hfetch))
  · rcases step_cases s with ⟨-, hstep⟩ | ⟨-, hfetch, hstep⟩ | ⟨i, -, -, hstep⟩ <;> rw [hstep] at h
    · cases h
    · cases h
      exact ⟨rfl, rfl, by simpa [hfetch] using s.fetch_isSome_iff⟩
    · exact absurd h (exec_ne_fault i s _)

/-! ### `load`, and the first step after it (R221, R222, R226, R229) -/

namespace Sys2Proof.Machine

/-- The place `k` counted from the address after `addr` is the place `k + 1` counted from `addr`. -/
theorem add_one_add_ofNat (addr : Addr) (k : Nat) :
    addr + 1#16 + BitVec.ofNat 16 k = addr + BitVec.ofNat 16 (k + 1) := by
  rw [BitVec.add_assoc, Nat.add_comm, BitVec.ofNat_add]

/-- Storing bytes changes memory alone. -/
theorem State.storeBytes_eq (s : State) (addr : Addr) (bs : List Byte) :
    s.storeBytes addr bs = { s with mem := (s.storeBytes addr bs).mem } := by
  induction bs generalizing s addr with
  | nil => rfl
  | cons v bs ih => exact ih (s.write addr v) (addr + 1#16)

/-- Storing bytes changes no byte but those at `addr`, `addr + 1`, and so on. -/
theorem State.read_storeBytes_of_ne {s : State} {addr b : Addr} {bs : List Byte}
    (h : ∀ k < bs.length, b ≠ addr + BitVec.ofNat 16 k) : (s.storeBytes addr bs).read b = s.read b := by
  induction bs generalizing s addr with
  | nil => rfl
  | cons v bs ih =>
    have hfirst : b ≠ addr := by simpa using h 0 (by simp)
    have hrest : ∀ k < bs.length, b ≠ addr + 1#16 + BitVec.ofNat 16 k := fun k hk => by
      rw [add_one_add_ofNat]
      exact h (k + 1) (by simpa using hk)
    exact (ih hrest).trans (s.read_write_ne hfirst v)

/-- Up to 65536 bytes stored do not overlap: each is read back at its place. -/
theorem State.read_storeBytes_of_getElem? {s : State} {addr : Addr} {bs : List Byte} {k : Nat} {v : Byte}
    (hlen : bs.length ≤ 65536) (h : bs[k]? = some v) :
    (s.storeBytes addr bs).read (addr + BitVec.ofNat 16 k) = v := by
  induction bs generalizing s addr k with
  | nil => simp at h
  | cons w bs ih =>
    rw [List.length_cons] at hlen
    cases k with
    | zero =>
      obtain rfl : w = v := by simpa using h
      have hrest : ∀ j < bs.length, addr + BitVec.ofNat 16 0 ≠ addr + 1#16 + BitVec.ofNat 16 j := by
        intro j hj
        bv_omega
      rw [State.storeBytes, State.read_storeBytes_of_ne hrest, BitVec.add_zero]
      exact s.read_write_same addr w
    | succ k =>
      rw [← add_one_add_ofNat]
      exact ih (by omega) (by simpa using h)

theorem encode_length_le_three (i : Instr) : (encode i).length ≤ 3 := by
  rw [encode_length, Instr.len, Operand.len]
  cases i.operand.form <;> decide

/-- The instruction whose bytes stand at PC and after it is the one fetched. -/
theorem State.fetch_of_encode_at_pc {s : State} {i : Instr}
    (h : ∀ k v, (encode i)[k]? = some v → s.read (s.pc + BitVec.ofNat 16 k) = v) : s.fetch = some i := by
  rw [State.fetch_eq_some_iff, ← encode_length]
  have hlen := encode_length_le_three i
  refine List.ext_getElem (by simpa using hlen) fun k hk _ => ?_
  have hread := h k _ (List.getElem?_eq_getElem hk)
  have hk3 : k = 0 ∨ k = 1 ∨ k = 2 := by omega
  rw [List.getElem_take, ← hread]
  rcases hk3 with rfl | rfl | rfl
  · rw [BitVec.add_zero]
    rfl
  · rfl
  · rfl

end Sys2Proof.Machine

/-- Settles O54: `load` is `storeBytes` at 0x8000, then a Write16 (O51) at 0xFFFC. -/
theorem loadCopiesTheProgramThenWritesTheVector : Obligations.LoadCopiesTheProgramThenWritesTheVector := by
  intro s program hlen
  obtain ⟨t, hwrite, hlo, hhi, hother, hframe⟩ := sixteenBitAccessesAreLittleEndian.2.1
    (s.storeBytes 0x8000#16 program) 0xFFFC#16 0x8000#16 (by decide)
  refine ⟨t, State.load_eq_next_iff.2 ⟨hlen, hwrite⟩, hlo, hhi, fun k v hk hlow hhigh => ?_,
    fun b hlow hhigh hout => ?_, ?_⟩
  · have hk' : k < program.length := (List.getElem?_eq_some_iff.1 hk).1
    have hne_low : BitVec.ofNat 16 (0x8000 + k) ≠ 0xFFFC#16 := by bv_omega
    have hne_high : BitVec.ofNat 16 (0x8000 + k) ≠ 0xFFFC#16 + 1#16 := by bv_omega
    rw [hother _ hne_low hne_high, BitVec.ofNat_add]
    exact State.read_storeBytes_of_getElem? (by omega) hk
  · rw [hother b hlow hhigh]
    exact State.read_storeBytes_of_ne fun k hk => by bv_omega
  · rw [hframe, State.storeBytes_eq]

/-- Settles O55: the length is the first thing that `load` looks at. -/
theorem loadRefusesLongPrograms : Obligations.LoadRefusesLongPrograms :=
  fun _ _ hlong => if_pos hlong

/-- Settles O56: the vector and the program's first bytes are read back where `load` put them (O54). -/
theorem loadThenResetStartsTheProgram : Obligations.LoadThenResetStartsTheProgram := by
  intro s i rest hlen
  obtain ⟨t, hload, hlo, hhi, hprogram, -, -⟩ :=
    loadCopiesTheProgramThenWritesTheVector s (encode i ++ rest) (by omega)
  have hpc : t.resetOp.pc = 0x8000#16 := by
    change hiLo (t.read 0xFFFD#16) (t.read 0xFFFC#16) = 0x8000#16
    rw [hlo, hhi]
    rfl
  refine ⟨t, hload, hpc, step_of_fetch ?_ (State.fetch_of_encode_at_pc fun k v hk => ?_)⟩
  · rw [hpc, State.inc16_one_of_ne_top _ (by decide)]
    rfl
  · have hlt : k < (encode i).length := (List.getElem?_eq_some_iff.1 hk).1
    rw [List.length_append] at hlen
    rw [hpc, ← BitVec.ofNat_add]
    exact hprogram k v (List.getElem?_append_left hlt ▸ hk) (by omega) (by omega)

end
